-- ==== Sys2Proof/Word.lean ====
section
/-! DEFINITION. The word types of the block: the widths of `10_state.md` R21 and of `30_encoding.md` R90. -/

namespace Sys2Proof

/-- One byte: half a program-memory word (R70), or a byte field of the Song (R320). -/
abbrev Byte := BitVec 8

/-- One program-memory word, which is also one program row (R61, R90). -/
abbrev Word16 := BitVec 16

/-- One word of the command port (R96). -/
abbrev CmdWord := BitVec 32

/-- One word of the program-memory write port (R99). -/
abbrev PmWord := BitVec 48

/-- The four-bit channel field of a command (R96). -/
abbrev Chan := BitVec 4

end Sys2Proof
end

