-- ==== Sys2Proof/Syntax.lean ====
section
/-! DEFINITION. The instructions: one constructor per row of spec/opcode_table.json. Rows name no register: every
operand of a row is an immediate inside the word, and its implicit operands are the registers of the channel whose
interpreter fetched it (`30_encoding.md` R95). -/

namespace Sys2Proof

/-- The two program-memory spaces (R60). -/
inductive Space where
  /-- `IMEM`, the Instruments: space bit 0 (R99). -/
  | imem
  /-- `FMEM`, the Effects: space bit 1 (R99). -/
  | fmem
  deriving DecidableEq, Repr, Inhabited

/-- What the machine executes: twelve program rows, the commands of the command port, the program-memory write and the
sample strobe. -/
inductive Instr where
  /-- WSET, wave row of op 0 (R212): `wflags` is `row[13:7]`, GATE in bit 0. -/
  | wset (value : BitVec 5) (wflags : BitVec 7)
  /-- WINC, wave row of op 1 (R213). -/
  | winc (value : BitVec 5) (wflags : BitVec 7)
  /-- WDEC, wave row of op 2 (R214). -/
  | wdec (value : BitVec 5) (wflags : BitVec 7)
  /-- WRSV, wave row of the reserved op 3 (R215): the value is carried and ignored. -/
  | wrsv (value : BitVec 5) (wflags : BitVec 7)
  /-- FSET, filter row of op 0 (R231): `ftype` is `row[14:12]`, LOW in bit 0. -/
  | fset (value : BitVec 5) (res : BitVec 4) (ftype : BitVec 3)
  /-- FINC, filter row of op 1 (R232). -/
  | finc (value : BitVec 5) (res : BitVec 4) (ftype : BitVec 3)
  /-- FDEC, filter row of op 2 (R233). -/
  | fdec (value : BitVec 5) (res : BitVec 4) (ftype : BitVec 3)
  /-- FRSV, filter row of the reserved op 3 (R234): the value is carried and ignored. -/
  | frsv (value : BitVec 5) (res : BitVec 4) (ftype : BitVec 3)
  /-- EREL, effect row of op 0 (R251). -/
  | erel (value : BitVec 8)
  /-- EABS, effect row of op 1 (R252). -/
  | eabs (value : BitVec 8)
  /-- EDET, effect row of op 2 (R253). -/
  | edet (value : BitVec 8)
  /-- ERSV, effect row of the reserved op 3 (R254): the value is carried and ignored. -/
  | ersv (value : BitVec 8)
  /-- NOTE_ON, the ROW command with a note field of 1..254 (R98, R122). -/
  | noteOn (ch : Chan) (note ins fx : BitVec 8)
  /-- NOTE_OFF, the ROW command with note field 255 (R123): its instrument and effect fields are ignored. -/
  | noteOff (ch : Chan)
  /-- ADOPT, the ROW command with note field 0 (R124). -/
  | adopt (ch : Chan) (ins fx : BitVec 8)
  /-- SILENCE (R125). -/
  | silence
  /-- MUTE (R126). -/
  | mute (ch : Chan) (b : Bool)
  /-- RUN (R127). -/
  | run (b : Bool)
  /-- The reserved command code 0: accepted and ignored (R97). -/
  | crsv0
  /-- The reserved command code 5 (R97). -/
  | crsv5
  /-- The reserved command code 6 (R97). -/
  | crsv6
  /-- The reserved command code 7 (R97). -/
  | crsv7
  /-- The reserved command code 8 (R97). -/
  | crsv8
  /-- The reserved command code 9 (R97). -/
  | crsv9
  /-- The reserved command code 10 (R97). -/
  | crsv10
  /-- The reserved command code 11 (R97). -/
  | crsv11
  /-- The reserved command code 12 (R97). -/
  | crsv12
  /-- The reserved command code 13 (R97). -/
  | crsv13
  /-- The reserved command code 14 (R97). -/
  | crsv14
  /-- The reserved command code 15 (R97). -/
  | crsv15
  /-- PMWRITE, the editor's program-memory write (R140). -/
  | pmwrite (space : Space) (addr : BitVec 24) (data : Word16)
  /-- TICK, the sample strobe: an event without an encoding (R100, R290). -/
  | tick
  deriving DecidableEq, Repr, Inhabited

/-- Where a word comes from. A row's format is not encoded in the row: it is fixed by where the row is stored, so the
decoder needs this and then only the word (R90, R105). -/
inductive Source where
  /-- A wave-program row, format W (R91). -/
  | wave
  /-- A filter-program row, format F (R92). -/
  | filter
  /-- An effect-program row, format E (R93). -/
  | effect
  /-- The 32-bit command port (R96). -/
  | command
  /-- The 48-bit program-memory write port (R99). -/
  | pmPort
  /-- The sample strobe, which carries no bits (R100). -/
  | strobe
  deriving DecidableEq, Repr, Inhabited

/-- Where an instruction is presented to the machine (R90, R94, R97, R99, R100). -/
def Instr.source : Instr → Source
  | .wset _ _ | .winc _ _ | .wdec _ _ | .wrsv _ _ => .wave
  | .fset _ _ _ | .finc _ _ _ | .fdec _ _ _ | .frsv _ _ _ => .filter
  | .erel _ | .eabs _ | .edet _ | .ersv _ => .effect
  | .noteOn _ _ _ _ | .noteOff _ | .adopt _ _ _ | .silence | .mute _ _ | .run _ => .command
  | .crsv0 | .crsv5 | .crsv6 | .crsv7 | .crsv8 | .crsv9 | .crsv10 | .crsv11 | .crsv12 | .crsv13 | .crsv14
  | .crsv15 => .command
  | .pmwrite _ _ _ => .pmPort
  | .tick => .strobe

/-- How many bytes a word of this source has (R90: every item has a fixed length). -/
def Source.byteLength : Source → Nat
  | .wave | .filter | .effect => 2
  | .command => 4
  | .pmPort => 6
  | .strobe => 0

end Sys2Proof
end

