-- ==== Sys2Proof/WellFormed.lean ====
section
/-! DEFINITION. Which terms of `Instr` are instructions of the machine. Every field has the width of its encoding, so
the one condition left is on the note of NOTE_ON: the values 0 and 255 of the field are ADOPT and NOTE_OFF
(`30_encoding.md` R98). -/

namespace Sys2Proof

/-- The note field of a ROW command selects NOTE_ON exactly in 1..254 (R98). -/
def noteArms (note : BitVec 8) : Bool := note != 0 && note != 255

/-- An instruction that some word of its source decodes to. -/
def Instr.wellFormed : Instr → Bool
  | .noteOn _ note _ _ => noteArms note
  | .wset _ _ | .winc _ _ | .wdec _ _ | .wrsv _ _ => true
  | .fset _ _ _ | .finc _ _ _ | .fdec _ _ _ | .frsv _ _ _ => true
  | .erel _ | .eabs _ | .edet _ | .ersv _ => true
  | .noteOff _ | .adopt _ _ _ | .silence | .mute _ _ | .run _ => true
  | .crsv0 | .crsv5 | .crsv6 | .crsv7 | .crsv8 | .crsv9 | .crsv10 | .crsv11 | .crsv12 | .crsv13 | .crsv14
  | .crsv15 => true
  | .pmwrite _ _ _ => true
  | .tick => true

end Sys2Proof
end

