-- ==== Sys2Proof/Decode.lean ====
section
/-! DEFINITION. The decoder and, after it, the encoder of program rows, command words and memory-write words
(`30_encoding.md` R90 to R104). Every bit pattern of a source's width decodes (R104); bytes of another count are refused
by name. -/

namespace Sys2Proof

/-- Why bytes are refused: they are not one word of the source's fixed length (R90). -/
inductive DecodeReject where
  /-- `found` bytes were given where a word of the source has `want`. -/
  | wrongLength (want found : Nat)
  deriving DecidableEq, Repr

/-- A wave row: value `[4:0]`, op `[6:5]`, flags `[13:7]`; bits `[15:14]` are ignored (R91, R94, R101). -/
def decodeWave (w : Word16) : Instr :=
  let value := w.extractLsb' 0 5
  let op := w.extractLsb' 5 2
  let wflags := w.extractLsb' 7 7
  if op = 0 then .wset value wflags
  else if op = 1 then .winc value wflags
  else if op = 2 then .wdec value wflags
  else .wrsv value wflags

/-- A filter row: value `[4:0]`, op `[6:5]`, resonance `[11:8]`, type `[14:12]`; bits 15 and 7 are ignored
(R92, R94, R101). -/
def decodeFilter (w : Word16) : Instr :=
  let value := w.extractLsb' 0 5
  let op := w.extractLsb' 5 2
  let res := w.extractLsb' 8 4
  let ftype := w.extractLsb' 12 3
  if op = 0 then .fset value res ftype
  else if op = 1 then .finc value res ftype
  else if op = 2 then .fdec value res ftype
  else .frsv value res ftype

/-- An effect row: value `[7:0]`, op `[9:8]`; bits `[15:10]` are ignored (R93, R94, R101). -/
def decodeEffect (w : Word16) : Instr :=
  let value := w.extractLsb' 0 8
  let op := w.extractLsb' 8 2
  if op = 0 then .erel value
  else if op = 1 then .eabs value
  else if op = 2 then .edet value
  else .ersv value

/-- A ROW command by its note field (R98). -/
def decodeRowCommand (w : CmdWord) : Instr :=
  let ch := w.extractLsb' 24 4
  let fx := w.extractLsb' 16 8
  let ins := w.extractLsb' 8 8
  let note := w.extractLsb' 0 8
  if note = 0 then .adopt ch ins fx
  else if note = 255 then .noteOff ch
  else .noteOn ch note ins fx

/-- A command by its opcode `cop` = `[31:28]` (R96, R97). -/
def decodeCommand (w : CmdWord) : Instr :=
  let cop := w.extractLsb' 28 4
  if cop = 1 then decodeRowCommand w
  else if cop = 2 then .silence
  else if cop = 3 then .mute (w.extractLsb' 24 4) (w.getLsbD 0)
  else if cop = 4 then .run (w.getLsbD 0)
  else if cop = 0 then .crsv0
  else if cop = 5 then .crsv5
  else if cop = 6 then .crsv6
  else if cop = 7 then .crsv7
  else if cop = 8 then .crsv8
  else if cop = 9 then .crsv9
  else if cop = 10 then .crsv10
  else if cop = 11 then .crsv11
  else if cop = 12 then .crsv12
  else if cop = 13 then .crsv13
  else if cop = 14 then .crsv14
  else .crsv15

/-- The space bit of a memory-write word: 0 is IMEM, 1 is FMEM (R99). -/
def decodeSpace (b : Bool) : Space := if b then .fmem else .imem

/-- A memory-write word: data `[15:0]`, address `[39:16]`, space `[40]`; bits `[47:41]` are ignored (R99, R101). -/
def decodePmw (w : PmWord) : Instr :=
  .pmwrite (decodeSpace (w.getLsbD 40)) (w.extractLsb' 16 24) (w.extractLsb' 0 16)

/-- A little-endian number: the first byte is the lowest (R70, log entry 5). -/
def bytesToNat : List Byte → Nat
  | [] => 0
  | b :: bs => b.toNat + 256 * bytesToNat bs

/-- The `n` lowest bytes of a number, the lowest first (R70). -/
def natToBytes : Nat → Nat → List Byte
  | 0, _ => []
  | n + 1, w => BitVec.ofNat 8 w :: natToBytes n (w / 256)

/-- The instruction that a word of a source, read as a number, stands for (R104: there is no illegal encoding). -/
def decodeNat (src : Source) (w : Nat) : Instr :=
  match src with
  | .wave => decodeWave (BitVec.ofNat 16 w)
  | .filter => decodeFilter (BitVec.ofNat 16 w)
  | .effect => decodeEffect (BitVec.ofNat 16 w)
  | .command => decodeCommand (BitVec.ofNat 32 w)
  | .pmPort => decodePmw (BitVec.ofNat 48 w)
  | .strobe => .tick

/-- The decoder over bytes, total: one word of the source's length decodes, any other count is refused by name
(R90, R104). -/
def decode (src : Source) (bytes : List Byte) : Except DecodeReject Instr :=
  if bytes.length = src.byteLength then .ok (decodeNat src (bytesToNat bytes))
  else .error (.wrongLength src.byteLength bytes.length)

/-- The source that a bare word of `nbits` bits is read from. The three row formats share one width, and a row's format
is not in the row (R90): a bare 16-bit word is read as the wave row that `State.withFetchWord` stores (log entry 6). -/
def tableSource (nbits : Nat) : Option Source :=
  if nbits = 0 then some .strobe
  else if nbits = 16 then some .wave
  else if nbits = 32 then some .command
  else if nbits = 48 then some .pmPort
  else none

/-- The decoder's answer on the bits of an opcode-table row, bit 0 the least significant bit of the word. -/
def decodeTableWord (nbits w : Nat) : Option Instr :=
  match tableSource nbits with
  | none => none
  | some src =>
    match decode src (natToBytes src.byteLength w) with
    | .ok i => some i
    | .error _ => none

/-- A wave row's word; an assembler writes the reserved bits as 0 (R91, R101). -/
def waveWord (op : BitVec 2) (value : BitVec 5) (wflags : BitVec 7) : Word16 :=
  0#2 ++ wflags ++ op ++ value

/-- A filter row's word (R92, R101). -/
def filterWord (op : BitVec 2) (value : BitVec 5) (res : BitVec 4) (ftype : BitVec 3) : Word16 :=
  0#1 ++ ftype ++ res ++ 0#1 ++ op ++ value

/-- An effect row's word (R93, R101). -/
def effectWord (op : BitVec 2) (value : BitVec 8) : Word16 :=
  0#6 ++ op ++ value

/-- A command word from its opcode, channel and payload (R96). -/
def commandWord (cop : BitVec 4) (ch : Chan) (payload : BitVec 24) : CmdWord :=
  cop ++ ch ++ payload

/-- The ROW command: effect `[23:16]`, instrument `[15:8]`, note `[7:0]` (R97). -/
def rowCommandWord (ch : Chan) (note ins fx : BitVec 8) : CmdWord :=
  commandWord 1 ch (fx ++ ins ++ note)

/-- The MUTE command (R97). -/
def muteCommandWord (ch : Chan) (b : Bool) : CmdWord :=
  commandWord 3 ch (0#23 ++ BitVec.ofBool b)

/-- The RUN command (R97). -/
def runCommandWord (b : Bool) : CmdWord :=
  commandWord 4 0 (0#23 ++ BitVec.ofBool b)

/-- The SILENCE command (R97). -/
def silenceCommandWord : CmdWord :=
  commandWord 2 0 0

/-- The space bit of a memory-write word (R99). -/
def spaceBit (space : Space) : BitVec 1 :=
  match space with
  | .imem => 0
  | .fmem => 1

/-- A memory-write word (R99). -/
def pmWriteWord (space : Space) (addr : BitVec 24) (data : Word16) : PmWord :=
  0#7 ++ spaceBit space ++ addr ++ data

/-- The word of an instruction, read as a number; the strobe has none (R91 to R100). -/
def encodeNat (i : Instr) : Nat :=
  match i with
  | .wset value wflags => (waveWord 0 value wflags).toNat
  | .winc value wflags => (waveWord 1 value wflags).toNat
  | .wdec value wflags => (waveWord 2 value wflags).toNat
  | .wrsv value wflags => (waveWord 3 value wflags).toNat
  | .fset value res ftype => (filterWord 0 value res ftype).toNat
  | .finc value res ftype => (filterWord 1 value res ftype).toNat
  | .fdec value res ftype => (filterWord 2 value res ftype).toNat
  | .frsv value res ftype => (filterWord 3 value res ftype).toNat
  | .erel value => (effectWord 0 value).toNat
  | .eabs value => (effectWord 1 value).toNat
  | .edet value => (effectWord 2 value).toNat
  | .ersv value => (effectWord 3 value).toNat
  | .noteOn ch note ins fx => (rowCommandWord ch note ins fx).toNat
  | .noteOff ch => (rowCommandWord ch 255 0 0).toNat
  | .adopt ch ins fx => (rowCommandWord ch 0 ins fx).toNat
  | .silence => silenceCommandWord.toNat
  | .mute ch b => (muteCommandWord ch b).toNat
  | .run b => (runCommandWord b).toNat
  | .crsv0 => (commandWord 0 0 0).toNat
  | .crsv5 => (commandWord 5 0 0).toNat
  | .crsv6 => (commandWord 6 0 0).toNat
  | .crsv7 => (commandWord 7 0 0).toNat
  | .crsv8 => (commandWord 8 0 0).toNat
  | .crsv9 => (commandWord 9 0 0).toNat
  | .crsv10 => (commandWord 10 0 0).toNat
  | .crsv11 => (commandWord 11 0 0).toNat
  | .crsv12 => (commandWord 12 0 0).toNat
  | .crsv13 => (commandWord 13 0 0).toNat
  | .crsv14 => (commandWord 14 0 0).toNat
  | .crsv15 => (commandWord 15 0 0).toNat
  | .pmwrite space addr data => (pmWriteWord space addr data).toNat
  | .tick => 0

/-- The bytes of an instruction, the lowest first (R70, R90). -/
def encode (i : Instr) : List Byte :=
  natToBytes i.source.byteLength (encodeNat i)

end Sys2Proof
end

