-- ==== Sys2Proof/Config.lean ====
section
/-! DEFINITION. What an implementation fixes and the spec leaves open (`00_scope.md` R7). A build of the hardware is
named by a `Build`; the constants below have no body, so nothing can be proved of the value an unnamed build gives
them. Machine/Params.lean turns them into the parameters, inside the bounds R7, R8, R161, R260 and R274 set. -/

namespace Sys2Proof

/-- Which instance of the hardware a state belongs to (R39: the parameters are fixed for a model instance). -/
inductive Build where
  /-- REFCFG, the reference configuration of R7 (log entry 1). -/
  | reference
  /-- Any other build: every OPEN parameter is a free constant of `Config` at this index. -/
  | other (id : Nat)
  deriving DecidableEq, Repr, Inhabited

/-- The filter's own memory `f_state` (R35). REFCFG keeps `f_low` and `f_band`; what another build keeps beside them is
in `extra`. -/
structure FilterMem where
  /-- `f_low`, signed 24 bits (R275). -/
  low : BitVec 24
  /-- `f_band`, signed 24 bits (R275). -/
  band : BitVec 24
  /-- Whatever else an open FILT keeps between ticks (R35, log entry 4). -/
  extra : List (BitVec 24)
  deriving DecidableEq, Repr, Inhabited

/-- CHANNEL_COUNT of a build, before its bounds 1..15 (R7). -/
opaque Config.openChannelCount : Nat → Nat
/-- INSTRUMENT_COUNT of a build, before its bounds 1..254 (R7). -/
opaque Config.openInstrumentCount : Nat → Nat
/-- EFFECT_COUNT of a build, before its bounds 1..254 (R7). -/
opaque Config.openEffectCount : Nat → Nat
/-- MAX_INSTRUMENT_LENGTH of a build, before its bounds 1..255 (R7). -/
opaque Config.openMaxInstrumentLength : Nat → Nat
/-- MAX_FILTER_LENGTH of a build, before its bounds 1..255 (R7). -/
opaque Config.openMaxFilterLength : Nat → Nat
/-- MAX_EFFECT_LENGTH of a build, before its bounds 1..255 (R7). -/
opaque Config.openMaxEffectLength : Nat → Nat
/-- TRACK_COUNT of a build, before its bounds 1..255 (R7). -/
opaque Config.openTrackCount : Nat → Nat
/-- Half of TRACK_LENGTH of a build, before its bound 1 (R7: even, at least 2). -/
opaque Config.openHalfTrackLength : Nat → Nat
/-- MAX_SONG_LENGTH of a build, before its bounds 1..255 (R7). -/
opaque Config.openMaxSongLength : Nat → Nat
/-- FINE of a build, before its bound 2 (R7). -/
opaque Config.openFine : Nat → Nat
/-- SWING_PHASE of a build, taken modulo 2 (R7, R307). -/
opaque Config.openSwingPhase : Nat → Nat
/-- The neighbour function NB of a build: build, channel to channel, taken modulo CHANNEL_COUNT (R171). -/
opaque Config.openNeighbour : Nat → Nat → Nat
/-- The direction in which a build's ATT table is monotonic: true is non-decreasing (R161 fixes none). -/
opaque Config.openAttackUp : Nat → Bool
/-- A build's ATT table by nibble, before its bounds and its monotonicity (R161). -/
opaque Config.openAttack : Nat → Nat → Nat
/-- The direction in which a build's DEC table is monotonic (R161). -/
opaque Config.openDecayUp : Nat → Bool
/-- A build's DEC table by nibble, before its bounds and its monotonicity (R161). -/
opaque Config.openDecay : Nat → Nat → Nat
/-- The direction in which a build's REL table is monotonic (R161). -/
opaque Config.openReleaseUp : Nat → Bool
/-- A build's REL table by nibble, before its bounds and its monotonicity (R161). -/
opaque Config.openRelease : Nat → Nat → Nat
/-- A build's frequency ROM by fine pitch, before its width and its monotonicity (R260). -/
opaque Config.openFreq : Nat → Nat → Nat
/-- The initial state of a build's filter (R274). -/
opaque Config.openFilterInit : Nat → FilterMem
/-- A build's filter step: memory, input, cutoff, resonance, type to the new memory and the signed output (R272). -/
opaque Config.openFilter : Nat → FilterMem → Int → BitVec 5 → BitVec 4 → BitVec 3 → FilterMem × BitVec 24
/-- SAMPLE_RATE: named by R7; no rule of the block depends on it (R380). -/
opaque Config.sampleRate : Build → Nat
/-- The block that a seek to `n` selects in a Song of `table_length` 0: R304's clamp target does not exist there
(R313 calls such a Song degenerate; log entry 9). -/
opaque Config.seekInEmptySong : Nat → Nat

end Sys2Proof
end

