-- ==== Sys2Proof/Machine/Arith.lean ====
section
/-! DEFINITION. The pseudocode primitives of `00_scope.md` R11. Arithmetic is on unbounded integers (R10); every
narrowing is one of these. -/

namespace Sys2Proof.Machine

/-- `asr(v, k) = floor(v / 2^k)`: the arithmetic shift right, rounding toward minus infinity (R11). -/
def asr (v : Int) (k : Nat) : Int := v / ((2 ^ k : Nat) : Int)

/-- The largest value of a signed `n`-bit integer (R10). -/
def signedMax (n : Nat) : Int := ((2 ^ (n - 1) : Nat) : Int) - 1

/-- The smallest value of a signed `n`-bit integer (R10). -/
def signedMin (n : Nat) : Int := -((2 ^ (n - 1) : Nat) : Int)

/-- `clamp(v, lo, hi) = max(lo, min(hi, v))` (R11). -/
def clampInt (v lo hi : Int) : Int := max lo (min hi v)

/-- `clamp` on the non-negative integers (R11). -/
def clampNat (v lo hi : Nat) : Nat := max lo (min hi v)

/-- `sat_N(v) = max(−2^(N−1), min(2^(N−1)−1, v))` (R11). -/
def sat (n : Nat) (v : Int) : Int := clampInt v (signedMin n) (signedMax n)

/-- The sum of `f c` over the channels `c` below `n`. -/
def sumBelow (f : Nat → Int) : Nat → Int
  | 0 => 0
  | n + 1 => sumBelow f n + f n

/-- The largest of `f lo`, …, `f (lo + k)`: how a table with open entries is made non-decreasing (R161, R260). -/
def runningMax (f : Nat → Nat) (lo : Nat) : Nat → Nat
  | 0 => f lo
  | k + 1 => max (runningMax f lo k) (f (lo + k + 1))

end Sys2Proof.Machine
end

