-- ==== Sys2Proof/Machine/Params.lean ====
section
/-! DEFINITION. The parameters of a build (`00_scope.md` R7, R8). REFCFG has the values the spec names; in any other
build each OPEN parameter is a free constant of Config inside the bounds the spec sets, and nothing more is known of it
(log entries 1 and 2). -/

namespace Sys2Proof.Machine

/-- CHANNEL_COUNT, 1..15 (R7, R8). -/
def channelCount : Build → Nat
  | .reference => 4
  | .other n => clampNat (Config.openChannelCount n) 1 15

/-- INSTRUMENT_COUNT, 1..254 (R7, R8). -/
def instrumentCount : Build → Nat
  | .reference => 32
  | .other n => clampNat (Config.openInstrumentCount n) 1 254

/-- EFFECT_COUNT, 1..254 (R7, R8). -/
def effectCount : Build → Nat
  | .reference => 32
  | .other n => clampNat (Config.openEffectCount n) 1 254

/-- MAX_INSTRUMENT_LENGTH, 1..255 (R7). -/
def maxInstrumentLength : Build → Nat
  | .reference => 16
  | .other n => clampNat (Config.openMaxInstrumentLength n) 1 255

/-- MAX_FILTER_LENGTH, 1..255 (R7). -/
def maxFilterLength : Build → Nat
  | .reference => 16
  | .other n => clampNat (Config.openMaxFilterLength n) 1 255

/-- MAX_EFFECT_LENGTH, 1..255 (R7). -/
def maxEffectLength : Build → Nat
  | .reference => 16
  | .other n => clampNat (Config.openMaxEffectLength n) 1 255

/-- TRACK_COUNT, 1..255 (R7). -/
def trackCount : Build → Nat
  | .reference => 255
  | .other n => clampNat (Config.openTrackCount n) 1 255

/-- TRACK_LENGTH, even and at least 2 (R7, R8). -/
def trackLength : Build → Nat
  | .reference => 32
  | .other n => 2 * max 1 (Config.openHalfTrackLength n)

/-- MAX_SONG_LENGTH, 1..255 (R7). -/
def maxSongLength : Build → Nat
  | .reference => 255
  | .other n => clampNat (Config.openMaxSongLength n) 1 255

/-- FINE, the detune steps per semitone, at least 2 (R7, R253). -/
def fine : Build → Nat
  | .reference => 16
  | .other n => max 2 (Config.openFine n)

/-- SWING_PHASE, 0 or 1 (R7, R307). -/
def swingPhase : Build → Nat
  | .reference => 1
  | .other n => Config.openSwingPhase n % 2

/-- NB, a total function from the channels to the channels (R171). -/
def neighbour (b : Build) (c : Nat) : Nat :=
  match b with
  | .reference => (c + channelCount b - 1) % channelCount b
  | .other n => Config.openNeighbour n c % channelCount b

/-- PW_MAX, the largest pulse-width register value (R7, R27). -/
def pwMax : Nat := 31

/-- CUT_MAX, the largest cutoff register value (R7, R34). -/
def cutMax : Nat := 31

/-- ENV_MAX = 2^24 − 1 (R31). -/
def envMax : Nat := 0xFFFFFF

/-- HEADROOM_SHIFT = ceil(log2(CHANNEL_COUNT)), by the cases R281 lists. -/
def headroomShift (b : Build) : Nat :=
  let n := channelCount b
  if n ≤ 1 then 0 else if n ≤ 2 then 1 else if n ≤ 4 then 2 else if n ≤ 8 then 3 else 4

/-- An open rate table: every entry in 1..2^24−1, monotonic over the sixteen nibbles in the direction `up` (R161). -/
def openRate (up : Bool) (raw : Nat → Nat) (nibble : Nat) : Nat :=
  let entry := fun k => clampNat (raw k) 1 envMax
  if up then runningMax entry 0 nibble else runningMax entry nibble (15 - nibble)

/-- ATT(n), the envelope's attack step; 2^(23−n) in REFCFG (R161). -/
def attackRate (b : Build) (nibble : BitVec 4) : Nat :=
  match b with
  | .reference => 2 ^ (23 - nibble.toNat)
  | .other n => openRate (Config.openAttackUp n) (Config.openAttack n) nibble.toNat

/-- DEC(n), the envelope's decay step; 2^(21−n) in REFCFG (R161). -/
def decayRate (b : Build) (nibble : BitVec 4) : Nat :=
  match b with
  | .reference => 2 ^ (21 - nibble.toNat)
  | .other n => openRate (Config.openDecayUp n) (Config.openDecay n) nibble.toNat

/-- REL(n), the envelope's release step; 2^(21−n) in REFCFG (R161). -/
def releaseRate (b : Build) (nibble : BitVec 4) : Nat :=
  match b with
  | .reference => 2 ^ (21 - nibble.toNat)
  | .other n => openRate (Config.openReleaseUp n) (Config.openRelease n) nibble.toNat

/-- SUS(S) = (17 · S) · 2^16, the sustain target (R161). -/
def sustainTarget (nibble : BitVec 4) : Nat := 17 * nibble.toNat * 2 ^ 16

/-- The top-octave table of REFCFG, `round(2^20 · 2^(k/12))` (R261). -/
def topOctave : List Nat :=
  [1048576, 1110928, 1176987, 1246974, 1321123, 1399681, 1482910, 1571089, 1664511, 1763488, 1868350, 1979448]

/-- ST(n), the REFCFG value of note `n` in 1..96 (R261). -/
def semitone (n : Nat) : Nat :=
  topOctave.getD ((n - 1) % 12) 0 >>> (7 - (n - 1) / 12)

/-- FREQ in REFCFG: the semitone value, interpolated linearly between semitones and rounded down (R261). -/
def referenceFreq (pf : Nat) : Nat :=
  let n := pf / 16
  let r := pf % 16
  if r = 0 then semitone n else semitone n + (semitone (n + 1) - semitone n) * r / 16

/-- FREQ, the frequency ROM from fine pitch FINE..96·FINE to a 24-bit value: total, below 2^24, non-decreasing (R260). -/
def freqRom (b : Build) (pf : Nat) : BitVec 24 :=
  match b with
  | .reference => BitVec.ofNat 24 (referenceFreq pf)
  | .other n => BitVec.ofNat 24 (runningMax (fun k => min (Config.openFreq n k) envMax) (fine b) (pf - fine b))

/-- The initial state of FILT, the reset value of `f_state` (R40, R274); 0, 0 in REFCFG (R275). -/
def filterInit : Build → FilterMem
  | .reference => { low := 0, band := 0, extra := [] }
  | .other n => Config.openFilterInit n

/-- CUT(k) of REFCFG, a Q15 coefficient (R276). -/
def cutCoeff (cutoff : BitVec 5) : Int := ((cutoff.toNat + 1) * 512 : Nat)

/-- RES(r) of REFCFG, a Q15 damping (R276). -/
def resCoeff (res : BitVec 4) : Int := 32768 - 2048 * (res.toNat : Int)

/-- FILT in REFCFG, the two-integrator state-variable filter with additive type combination (R275, R277). -/
def referenceFilter (m : FilterMem) (x : Int) (cutoff : BitVec 5) (res : BitVec 4) (ftype : BitVec 3) : FilterMem × Int :=
  let f := cutCoeff cutoff
  let q := resCoeff res
  let low := sat 24 (m.low.toInt + asr (f * m.band.toInt) 15)
  let high := sat 24 (x - low - asr (q * m.band.toInt) 15)
  let band := sat 24 (m.band.toInt + asr (f * high) 15)
  ({ m with low := BitVec.ofInt 24 low, band := BitVec.ofInt 24 band },
    (if ftype.getLsbD 0 then low else 0) + (if ftype.getLsbD 1 then band else 0)
      + (if ftype.getLsbD 2 then high else 0))

/-- FILT, the filter step (R272). In an open build it is any total function whose output fits in a signed 24-bit value
and that answers input 0 from the initial state by output 0 and the initial state (R274). -/
def filterStepFn (b : Build) (m : FilterMem) (x : Int) (cutoff : BitVec 5) (res : BitVec 4) (ftype : BitVec 3) :
    FilterMem × Int :=
  match b with
  | .reference => referenceFilter m x cutoff res ftype
  | .other n =>
    if m = filterInit b ∧ x = 0 then (m, 0)
    else
      let r := Config.openFilter n m x cutoff res ftype
      (r.1, r.2.toInt)

/-- INS_STRIDE, the words of one Instrument (R62). -/
def insStride (b : Build) : Nat := 4 + maxInstrumentLength b + maxFilterLength b

/-- FX_STRIDE, the words of one Effect (R63). -/
def fxStride (b : Build) : Nat := 1 + maxEffectLength b

/-- The words of IMEM (R62). -/
def imemWords (b : Build) : Nat := instrumentCount b * insStride b

/-- The words of FMEM (R63). -/
def fmemWords (b : Build) : Nat := effectCount b * fxStride b

/-- IBASE(i), the first word of Instrument `i ≥ 1` (R62). Index 0 has no storage and no run reads a word of it (R191);
`exec` of a filter row on a channel with `cur_ins` = 0 reads Instrument 1's words here (DESIGN CHOICE, log entry 18). -/
def insBase (b : Build) (i : Nat) : Nat := (i - 1) * insStride b

/-- FBASE(e), the first word of Effect `e ≥ 1` (R63). Index 0 has no storage and nothing reads a word of it. -/
def fxBase (b : Build) (e : Nat) : Nat := (e - 1) * fxStride b

end Sys2Proof.Machine
end

