-- ==== Sys2Proof/Machine/State.lean ====
section
/-! DEFINITION. The machine's state as plain data: the registers of `10_state.md`, the program memory of `20_memory.md`,
the transport and the Song of `47_transport_host.md`, the events waiting between ticks (R38), and the fields of the model
itself, each marked so. -/

namespace Sys2Proof.Machine

/-- A sparse byte memory: (address, byte) pairs in one canonical form, see `Memory.wf`. -/
abbrev Memory := List Host.Cell

/-- What a byte that nothing lists reads as (DESIGN CHOICE, log entry 3: R83 leaves power-up contents unspecified, and
a launch gives them as the initial list). -/
def unlistedByte : Byte := 0

/-- Addresses strictly rising from above `lo`, and no entry equal to what an unlisted address reads as. -/
def Memory.wfFrom (lo : Nat) : Memory → Bool
  | [] => true
  | (a, v) :: m => decide (lo ≤ a) && v != unlistedByte && Memory.wfFrom (a + 1) m

/-- The canonical form: equal memories are equal lists. -/
def Memory.wf (m : Memory) : Bool := Memory.wfFrom 0 m

/-- Every listed address is below `hi`. -/
def Memory.below (hi : Nat) : Memory → Bool
  | [] => true
  | (a, _) :: m => decide (a < hi) && Memory.below hi m

/-- The envelope stages (R33); the codes 5, 6, 7 are never written by any rule. -/
inductive Stage where
  /-- IDLE, code 0. -/
  | idle
  /-- ATTACK, code 1. -/
  | attack
  /-- DECAY, code 2. -/
  | decay
  /-- SUSTAIN, code 3. -/
  | sustain
  /-- RELEASE, code 4. -/
  | release
  deriving DecidableEq, Repr, Inhabited

/-- The three-bit code of a stage (R33). -/
def Stage.code : Stage → BitVec 3
  | .idle => 0
  | .attack => 1
  | .decay => 2
  | .sustain => 3
  | .release => 4

/-- The registers of one channel (R21). -/
structure Voice where
  /-- `note[c]`, the base note, 0 = none yet (R22). -/
  note : BitVec 8
  /-- `cur_ins[c]`, the assigned Instrument, 0 = none (R23). -/
  curIns : BitVec 8
  /-- `cur_fx[c]`, the assigned Effect, 0 = none (R23). -/
  curFx : BitVec 8
  /-- `ins_pos[c]`, the wave program's cursor (R24). -/
  insPos : BitVec 8
  /-- `flt_pos[c]`, the filter program's cursor (R24). -/
  fltPos : BitVec 8
  /-- `fx_pos[c]`, the effect program's cursor (R24). -/
  fxPos : BitVec 8
  /-- `note_gate[c]`, the gate as the transport last set it (R25). -/
  noteGate : Bool
  /-- `flags[c]`: GATE, TRI, SAW, PULSE, NOISE, RING, SYNC in bits 0 to 6 (R26). -/
  flags : BitVec 7
  /-- `pw[c]`, the pulse-width register (R27). -/
  pw : BitVec 5
  /-- `freq[c]`, the frequency register (R28). -/
  freq : BitVec 24
  /-- `phase[c]`, the phase accumulator (R29). -/
  phase : BitVec 24
  /-- `lfsr[c]`, the noise register (R30). -/
  lfsr : BitVec 23
  /-- `env_stage[c]` (R33). -/
  envStage : Stage
  /-- `env_acc[c]`, the envelope accumulator (R31). -/
  envAcc : BitVec 24
  /-- `mute[c]`, one bit of the mute control register (R36). -/
  mute : Bool
  deriving DecidableEq, Repr, Inhabited

/-- The reset values of a channel's registers (R40). -/
def voiceReset : Voice where
  note := 0
  curIns := 0
  curFx := 0
  insPos := 0
  fltPos := 0
  fxPos := 0
  noteGate := false
  flags := 0
  pw := 0
  freq := 0
  phase := 0
  lfsr := 0x7FFFFF
  envStage := .idle
  envAcc := 0
  mute := false

/-- The transport phase `tstate` (R300). -/
inductive TState where
  /-- STOPPED. -/
  | stopped
  /-- PLAYING. -/
  | playing
  /-- PAUSED. -/
  | paused
  deriving DecidableEq, Repr, Inhabited

/-- The Song, in the host's memory (R320). -/
structure Song where
  /-- `tempo`, the frames of a row. -/
  tempo : BitVec 8
  /-- `swing`, the extra frames of alternating rows. -/
  swing : BitVec 8
  /-- `table_length`, the number of blocks. -/
  tableLength : BitVec 8
  /-- `table[b][c]`: one byte, the track of block `b` for channel `c`. -/
  table : Memory
  /-- `track[t].row[r]`: three bytes, note, instrument, effect. -/
  tracks : Memory
  deriving DecidableEq, Repr, Inhabited

/-- The host agent: the transport registers (R300), the Song (R320) and the buffer being filled (R309). -/
structure Transport where
  /-- `tstate`. -/
  tstate : TState
  /-- `block`, the current block. -/
  block : Nat
  /-- `row`, the current row. -/
  row : Nat
  /-- `frame`, the samples already produced in the current row, a whole number (R300, C1). -/
  frame : Nat
  /-- `block_loop`. -/
  blockLoop : Bool
  /-- The Song (R320). -/
  song : Song
  /-- `dest`: the samples `fill_buffer` has stored so far, the oldest first (R309). -/
  dest : List Word16
  deriving DecidableEq, Repr, Inhabited

/-- What waits to be applied, in the order it was presented: the three kinds of event that reach the block (R332), the
transport's operations (R301 to R309) and the editor's writes to the Song (R321). -/
inductive Event where
  /-- A word on the command port (R96). -/
  | command (w : CmdWord)
  /-- A word on the program-memory write port (R99). -/
  | pmWrite (w : PmWord)
  /-- The sample strobe (R100). -/
  | tick
  /-- Hardware reset (R360): not an event of R332, which lists what reaches a block that stays on. -/
  | hardwareReset
  /-- `play()` (R301). -/
  | play
  /-- `pause()` (R302). -/
  | pause
  /-- `stop()` (R303). -/
  | stop
  /-- `block(n)` (R304). -/
  | seek (n : Nat)
  /-- `block_loop(b)` (R305). -/
  | setBlockLoop (b : Bool)
  /-- `set_channel_active(c, a)` (R306). -/
  | setChannelActive (c : Chan) (a : Bool)
  /-- `fill_buffer(dest, n)` (R309). -/
  | fillBuffer (n : Nat)
  /-- One pass of the loop of `fill_buffer` (R309). -/
  | sample
  /-- `dest[k] <- sample_out` (R309). -/
  | storeSample
  /-- `frame <- frame + 1` and the end-of-row test (R309). -/
  | advanceFrame
  /-- The editor writes `tempo` (R321). -/
  | setTempo (v : BitVec 8)
  /-- The editor writes `swing` (R321). -/
  | setSwing (v : BitVec 8)
  /-- The editor writes `table_length` (R321). -/
  | setTableLength (v : BitVec 8)
  /-- The editor writes `table[b][c]` (R321). -/
  | setTable (b c : Nat) (t : BitVec 8)
  /-- The editor writes `track[t].row[r]` (R321). -/
  | setTrackRow (t r : Nat) (note ins fx : BitVec 8)
  deriving DecidableEq, Repr, Inhabited

/-- The state of the machine. -/
structure State where
  /-- Which build this is: its parameters, fixed for the instance (R39). No rule writes it. -/
  build : Build
  /-- The registers of the CHANNEL_COUNT channels, channel 0 first (R21). -/
  voices : List Voice
  /-- `f_cutoff` (R34). -/
  fCutoff : BitVec 5
  /-- `f_res` (R34). -/
  fRes : BitVec 4
  /-- `f_type`: LOW, BAND, HIGH in bits 0 to 2 (R34). -/
  fType : BitVec 3
  /-- `f_route`, bit `c` for channel `c`; the bits from CHANNEL_COUNT up are 0 (R34). -/
  fRoute : BitVec 15
  /-- `f_state`, the filter's own memory (R35). -/
  fState : FilterMem
  /-- `run`, the run control register (R36). -/
  run : Bool
  /-- `sample_out`, signed (R37). -/
  sampleOut : Word16
  /-- IMEM as bytes, the low byte of word `a` at `2a` (R60, R70). -/
  imem : Memory
  /-- FMEM as bytes (R60, R70). -/
  fmem : Memory
  /-- The host events accepted and not yet applied, the oldest first (R38, R75). -/
  pending : List Event
  /-- The host agent (R300, R320). -/
  transport : Transport
  /-- THE MODEL'S OWN: the channel whose interpreter executes the present row, 0 outside a TICK (R95, log entry 7). -/
  active : Nat
  /-- THE MODEL'S OWN: the raw fine pitch of the channel being interpreted, 0 outside a TICK (R250, log entry 7). -/
  pfRaw : Int
  deriving DecidableEq, Repr, Inhabited

/-- Why a machine stops. Nothing raises one: the set of synchronous exception causes is empty (R330), so the type has no
constructor and no step can answer with a fault. -/
inductive Fault where
  deriving DecidableEq, Repr

/-- Why something is turned away: an instruction without a meaning, or a launch. No step answers with one. -/
inductive Refusal where
  /-- An arm of exec without a meaning yet (safe: nothing can be proved of that instruction). No arm is left so. -/
  | notModelled (mnemonic : String)
  /-- `launch` was given a degenerate Song (R313, U9). Safe: nothing runs. No instruction and no step raises it. -/
  | degenerateSong
  deriving DecidableEq, Repr

/-- The transport's reset values (R300), around the Song the host holds. -/
def transportReset (song : Song) : Transport where
  tstate := .stopped
  block := 0
  row := 0
  frame := 0
  blockLoop := false
  song := song
  dest := []

/-- The Song `State.reset` starts with: one block of no tracks, one frame a row, the least within the invariants of R313
and R320 (DESIGN CHOICE, log entry 8: the spec gives the Song no initial contents). -/
def songReset : Song where
  tempo := 1
  swing := 0
  tableLength := 1
  table := []
  tracks := []

/-- The machine right after hardware reset (R40, R360, R361), for any build, any program-memory contents and any Song:
R83 and R362 make the first contents an argument of the launch. Which Songs a launch accepts is `launch`'s to say. -/
def State.resetOf (b : Build) (imem fmem : Memory) (song : Song) : State where
  build := b
  voices := List.replicate (channelCount b) voiceReset
  fCutoff := 0
  fRes := 0
  fType := 0
  fRoute := 0
  fState := filterInit b
  run := false
  sampleOut := 0
  imem := imem
  fmem := fmem
  pending := []
  transport := transportReset song
  active := 0
  pfRaw := 0

/-- The launch the host runs: REFCFG with nothing listed in memory (log entries 1, 3 and 8). -/
def State.reset : State := State.resetOf .reference [] [] songReset

end Sys2Proof.Machine
end

