-- ==== Sys2Proof/Machine/Ops.lean ====
section
/-! DEFINITION. The named operations over memory and registers. There is no exception to take and none to return from:
no operation of the block raises one, no state is saved on any event and no return instruction exists (`60_exceptions.md`
R330, R334, R335). -/

namespace Sys2Proof.Machine

/-! Memory: bytes in canonical form (R60, R61). -/

/-- The byte at an address. -/
def readByte : Memory → Nat → Byte
  | [], _ => unlistedByte
  | (k, v) :: m, a => if a = k then v else readByte m a

/-- Puts a listed byte in front, or leaves it out where an unlisted address reads as it. -/
def consByte (a : Nat) (v : Byte) (m : Memory) : Memory :=
  if v = unlistedByte then m else (a, v) :: m

/-- Replaces the byte at an address, keeping the canonical form. -/
def writeByte : Memory → Nat → Byte → Memory
  | [], a, v => consByte a v []
  | (k, w) :: m, a, v =>
    if a < k then consByte a v ((k, w) :: m)
    else if a = k then consByte a v m
    else (k, w) :: writeByte m a v

/-- `MemRead(space, addr, 1)`: the 16-bit word at a word address, the low byte first (R61, R70). -/
def readWord (m : Memory) (addr : Nat) : Word16 :=
  readByte m (2 * addr + 1) ++ readByte m (2 * addr)

/-- `MemWrite(space, addr, 1, v)`: replaces the word, the low byte first (R61, R70). -/
def writeWord (m : Memory) (addr : Nat) (v : Word16) : Memory :=
  writeByte (writeByte m (2 * addr) (v.extractLsb' 0 8)) (2 * addr + 1) (v.extractLsb' 8 8)

/-! Registers. -/

/-- `r[c]`: the registers of channel `c` (R11); those of a channel that does not exist read as at reset. -/
def State.voice (s : State) (c : Nat) : Voice := s.voices.getD c voiceReset

/-- Rewrites the registers of channel `c`; nothing where there is no such channel. -/
def State.modVoice (s : State) (c : Nat) (f : Voice → Voice) : State :=
  { s with voices := s.voices.modify c f }

/-- Replaces every channel's registers. -/
def State.withVoices (s : State) (vs : List Voice) : State := { s with voices := vs }

/-- Writes the four filter control registers (R34). -/
def State.withFilter (s : State) (cutoff : BitVec 5) (res : BitVec 4) (ftype : BitVec 3) (route : BitVec 15) : State :=
  { s with fCutoff := cutoff, fRes := res, fType := ftype, fRoute := route }

/-- Writes the filter's own memory (R35). -/
def State.withFState (s : State) (m : FilterMem) : State := { s with fState := m }

/-- Writes the run register (R36). -/
def State.withRun (s : State) (b : Bool) : State := { s with run := b }

/-- Writes the output register (R37). -/
def State.withSampleOut (s : State) (v : Word16) : State := { s with sampleOut := v }

/-- Replaces IMEM. -/
def State.withImem (s : State) (m : Memory) : State := { s with imem := m }

/-- Replaces FMEM. -/
def State.withFmem (s : State) (m : Memory) : State := { s with fmem := m }

/-- Replaces the waiting events. -/
def State.withPending (s : State) (es : List Event) : State := { s with pending := es }

/-- Puts events before the waiting ones: the commands a transport operation issues are applied next (R333). -/
def State.issue (s : State) (es : List Event) : State := { s with pending := es ++ s.pending }

/-- Replaces the host agent's state. -/
def State.withTransport (s : State) (t : Transport) : State := { s with transport := t }

/-- Names the channel whose interpreters run (the model's own field). -/
def State.withActive (s : State) (c : Nat) : State := { s with active := c }

/-- Writes the raw fine pitch (the model's own field, R250). -/
def State.withPfRaw (s : State) (p : Int) : State := { s with pfRaw := p }

/-- The registers of the channel whose interpreter executes (R95). -/
def State.activeVoice (s : State) : Voice := s.voice s.active

/-- Rewrites the registers of the channel whose interpreter executes (R95). -/
def State.modActive (s : State) (f : Voice → Voice) : State := s.modVoice s.active f

/-! Program-memory fields (R12, R64 to R69). -/

/-- Word `k` of Instrument `i` (R62). -/
def State.insWord (s : State) (i k : Nat) : Word16 := readWord s.imem (insBase s.build i + k)

/-- Word `k` of Effect `e` (R63). -/
def State.fxWord (s : State) (e k : Nat) : Word16 := readWord s.fmem (fxBase s.build e + k)

/-- The length field of a program header: bits `[7:0]` (R65, R67, R69). -/
def headerLength (w : Word16) : Nat := (w.extractLsb' 0 8).toNat

/-- The loop field of a program header: bits `[15:8]` (R65, R67, R69). -/
def headerLoop (w : Word16) : Nat := (w.extractLsb' 8 8).toNat

/-- `IMEM[i].hard_restart`, bit 15 of the control word (R66). -/
def State.hardRestart (s : State) (i : Nat) : Bool := (s.insWord i 2).getLsbD 15

/-- Bits `[CHANNEL_COUNT−1:0]` of a control word; the bits above are reserved and ignored (R66). -/
def routeMask (b : Build) (w : Word16) : BitVec 15 :=
  w.extractLsb' 0 15 &&& BitVec.ofNat 15 (2 ^ channelCount b - 1)

/-- `IMEM[i].route`, the routing mask (R66). -/
def State.insRoute (s : State) (i : Nat) : BitVec 15 := routeMask s.build (s.insWord i 2)

/-- The ADSR word of the channel's Instrument, all nibbles 0 where it has none (R64, R161). -/
def State.adsr (s : State) (v : Voice) : Word16 :=
  if v.curIns = 0 then 0 else s.insWord v.curIns.toNat 0

/-! Events. -/

/-- The instruction that an event presents to the block, if it is one of the block's three kinds (R332). -/
def eventInstr : Event → Option Instr
  | .command w => some (decodeCommand w)
  | .pmWrite w => some (decodePmw w)
  | .tick => some .tick
  | .hardwareReset | .play | .pause | .stop | .seek _ | .setBlockLoop _ | .setChannelActive _ _ | .fillBuffer _ | .sample
  | .storeSample | .advanceFrame | .setTempo _ | .setSwing _ | .setTableLength _ | .setTable _ _ _
  | .setTrackRow _ _ _ _ _ => none

end Sys2Proof.Machine
end

