-- ==== Sys2Proof/Machine/Operands.lean ====
section
/-! DEFINITION. The operand forms: the immediates of a row (`30_encoding.md` R95), the saturating adjustments of the
five-bit registers (R216, R236), and the index fields of a ROW command (R121). -/

namespace Sys2Proof.Machine

/-- INCREMENT of a five-bit register: the exact sum, clamped at `top` (R213, R232). -/
def incClamp (top : Nat) (r v : BitVec 5) : BitVec 5 := BitVec.ofNat 5 (min top (r.toNat + v.toNat))

/-- DECREMENT of a five-bit register: the exact difference, clamped at 0 (R214, R233). -/
def decClamp (r v : BitVec 5) : BitVec 5 := BitVec.ofNat 5 (r.toNat - v.toNat)

/-- `off = value − 0x30`, −48..+207 (R95). -/
def effectOffset (value : BitVec 8) : Int := (value.toNat : Int) - 0x30

/-- An index field resolved against its count: itself in 1..count, else 0 (R121). -/
def resolveIndex (count : Nat) (i : BitVec 8) : BitVec 8 :=
  if 1 ≤ i.toNat ∧ i.toNat ≤ count then i else 0

/-- `ins_ok` (R121). -/
def State.insOk (s : State) (ins : BitVec 8) : BitVec 8 := resolveIndex (instrumentCount s.build) ins

/-- `fx_ok` (R121). -/
def State.fxOk (s : State) (fx : BitVec 8) : BitVec 8 := resolveIndex (effectCount s.build) fx

/-- Whether a command's channel field names a channel (R103, R121). -/
def State.hasChannel (s : State) (ch : Chan) : Bool := decide (ch.toNat < channelCount s.build)

end Sys2Proof.Machine
end

