-- ==== Sys2Proof/Machine/Commands.lean ====
section
/-! DEFINITION. The commands and the memory write (`40_row_dispatch_commands.md`). A command is executed whether `run` is
0 or 1, and none can be refused (R120). -/

namespace Sys2Proof.Machine

/-- A command for a channel that does not exist does nothing (R103, R121). -/
def State.onChannel (s : State) (ch : Chan) (f : State → State) : State :=
  if s.hasChannel ch then f s else s

/-- A non-zero resolved index replaces the held one (R122). -/
def takeIndex (new held : BitVec 8) : BitVec 8 := if new ≠ 0 then new else held

/-- NOTE_ON's steps (1) to (3): indices, cursors, note and gate (R122). -/
def armVoice (note insOk fxOk : BitVec 8) (v : Voice) : Voice :=
  { v with
    curIns := takeIndex insOk v.curIns
    curFx := takeIndex fxOk v.curFx
    insPos := 0
    fltPos := 0
    fxPos := 0
    note := note
    noteGate := true }

/-- NOTE_ON's step (4): phase and envelope back to their start (R122). -/
def restartVoice (v : Voice) : Voice := { v with phase := 0, envAcc := 0, envStage := .idle }

/-- `hr`: the hard-restart bit of the Instrument a voice has assigned, 0 without one (R122). -/
def State.restartBit (s : State) (v : Voice) : Bool := v.curIns != 0 && s.hardRestart v.curIns.toNat

/-- NOTE_ON on one voice (R122). -/
def State.noteOnVoice (s : State) (note insOk fxOk : BitVec 8) (v : Voice) : Voice :=
  let armed := armVoice note insOk fxOk v
  if s.restartBit armed ∨ armed.envStage = .idle then restartVoice armed else armed

/-- NOTE_ON (R122). -/
def noteOnCmd (ch : Chan) (note ins fx : BitVec 8) (s : State) : State :=
  s.onChannel ch fun s => s.modVoice ch.toNat (s.noteOnVoice note (s.insOk ins) (s.fxOk fx))

/-- NOTE_OFF (R123). -/
def noteOffCmd (ch : Chan) (s : State) : State :=
  s.onChannel ch fun s => s.modVoice ch.toNat fun v => { v with noteGate := false }

/-- ADOPT's test of the instrument (R124). -/
def adoptIns (insOk : BitVec 8) (v : Voice) : Voice :=
  if insOk ≠ 0 ∧ v.curIns = 0 then { v with curIns := insOk, insPos := 0, fltPos := 0 } else v

/-- ADOPT's test of the effect (R124). -/
def adoptFx (fxOk : BitVec 8) (v : Voice) : Voice :=
  if fxOk ≠ 0 ∧ v.curFx = 0 then { v with curFx := fxOk, fxPos := 0 } else v

/-- ADOPT (R124). -/
def adoptCmd (ch : Chan) (ins fx : BitVec 8) (s : State) : State :=
  s.onChannel ch fun s => s.modVoice ch.toNat fun v => adoptFx (s.fxOk fx) (adoptIns (s.insOk ins) v)

/-- A voice after SILENCE: its reset values, the mute bit kept (R40, R125). -/
def silenceVoice (v : Voice) : Voice := { voiceReset with mute := v.mute }

/-- SILENCE (R125). -/
def silenceCmd (s : State) : State :=
  (((s.withVoices (s.voices.map silenceVoice)).withFilter 0 0 0 0).withFState (filterInit s.build)).withSampleOut 0

/-- MUTE (R126). -/
def muteCmd (ch : Chan) (b : Bool) (s : State) : State :=
  s.onChannel ch fun s => s.modVoice ch.toNat fun v => { v with mute := b }

/-- RUN (R127). -/
def runCmd (b : Bool) (s : State) : State := s.withRun b

/-- A reserved command code is accepted and ignored (R97, R104). -/
def ignoredCmd (s : State) : State := s

/-- PMWRITE: the write, or nothing at or beyond the end of the space (R82, R140). -/
def pmwriteCmd (space : Space) (addr : BitVec 24) (data : Word16) (s : State) : State :=
  match space with
  | .imem => if addr.toNat < imemWords s.build then s.withImem (writeWord s.imem addr.toNat data) else s
  | .fmem => if addr.toNat < fmemWords s.build then s.withFmem (writeWord s.fmem addr.toNat data) else s

/-- The meaning of NOTE_ON (R122). -/
def execNoteOn (ch : Chan) (note ins fx : BitVec 8) (s : State) : Host.Outcome State Fault Refusal :=
  .next (noteOnCmd ch note ins fx s)

/-- The meaning of NOTE_OFF (R123). -/
def execNoteOff (ch : Chan) (s : State) : Host.Outcome State Fault Refusal := .next (noteOffCmd ch s)

/-- The meaning of ADOPT (R124). -/
def execAdopt (ch : Chan) (ins fx : BitVec 8) (s : State) : Host.Outcome State Fault Refusal :=
  .next (adoptCmd ch ins fx s)

/-- The meaning of SILENCE (R125). -/
def execSilence (s : State) : Host.Outcome State Fault Refusal := .next (silenceCmd s)

/-- The meaning of MUTE (R126). -/
def execMute (ch : Chan) (b : Bool) (s : State) : Host.Outcome State Fault Refusal := .next (muteCmd ch b s)

/-- The meaning of RUN (R127). -/
def execRun (b : Bool) (s : State) : Host.Outcome State Fault Refusal := .next (runCmd b s)

/-- The meaning of the reserved code 0 (R97). -/
def execCrsv0 (s : State) : Host.Outcome State Fault Refusal := .next (ignoredCmd s)

/-- The meaning of the reserved code 5 (R97). -/
def execCrsv5 (s : State) : Host.Outcome State Fault Refusal := .next (ignoredCmd s)

/-- The meaning of the reserved code 6 (R97). -/
def execCrsv6 (s : State) : Host.Outcome State Fault Refusal := .next (ignoredCmd s)

/-- The meaning of the reserved code 7 (R97). -/
def execCrsv7 (s : State) : Host.Outcome State Fault Refusal := .next (ignoredCmd s)

/-- The meaning of the reserved code 8 (R97). -/
def execCrsv8 (s : State) : Host.Outcome State Fault Refusal := .next (ignoredCmd s)

/-- The meaning of the reserved code 9 (R97). -/
def execCrsv9 (s : State) : Host.Outcome State Fault Refusal := .next (ignoredCmd s)

/-- The meaning of the reserved code 10 (R97). -/
def execCrsv10 (s : State) : Host.Outcome State Fault Refusal := .next (ignoredCmd s)

/-- The meaning of the reserved code 11 (R97). -/
def execCrsv11 (s : State) : Host.Outcome State Fault Refusal := .next (ignoredCmd s)

/-- The meaning of the reserved code 12 (R97). -/
def execCrsv12 (s : State) : Host.Outcome State Fault Refusal := .next (ignoredCmd s)

/-- The meaning of the reserved code 13 (R97). -/
def execCrsv13 (s : State) : Host.Outcome State Fault Refusal := .next (ignoredCmd s)

/-- The meaning of the reserved code 14 (R97). -/
def execCrsv14 (s : State) : Host.Outcome State Fault Refusal := .next (ignoredCmd s)

/-- The meaning of the reserved code 15 (R97). -/
def execCrsv15 (s : State) : Host.Outcome State Fault Refusal := .next (ignoredCmd s)

/-- The meaning of PMWRITE (R140). -/
def execPmwrite (space : Space) (addr : BitVec 24) (data : Word16) (s : State) : Host.Outcome State Fault Refusal :=
  .next (pmwriteCmd space addr data s)

end Sys2Proof.Machine
end

