-- ==== Sys2Proof/Machine/EffectRows.lean ====
section
/-! DEFINITION. The effect-program rows and the pitch path (`45_effect_program.md`). An effect row writes no register: it
yields the raw fine pitch, which the pitch path of the same channel and tick turns into `freq[c]` (R250). -/

namespace Sys2Proof.Machine

/-- `note[c] · FINE`, the base note alone, in fine steps (R255). -/
def State.basePitch (s : State) : Int := (s.activeVoice.note.toNat : Int) * (fine s.build : Int)

/-- EREL: `pf_raw = (note[c] + off) · FINE` (R251). -/
def erelRow (value : BitVec 8) (s : State) : State :=
  s.withPfRaw (((s.activeVoice.note.toNat : Int) + effectOffset value) * (fine s.build : Int))

/-- EABS: `pf_raw = value · FINE` (R252). -/
def eabsRow (value : BitVec 8) (s : State) : State :=
  s.withPfRaw ((value.toNat : Int) * (fine s.build : Int))

/-- EDET: `pf_raw = note[c] · FINE + off` (R253). -/
def edetRow (value : BitVec 8) (s : State) : State :=
  s.withPfRaw (s.basePitch + effectOffset value)

/-- ERSV: `pf_raw = note[c] · FINE` (R254); the value is ignored. -/
def ersvRow (_value : BitVec 8) (s : State) : State :=
  s.withPfRaw s.basePitch

/-- The pitch clamp `pf = clamp(pf_raw, FINE, 96 · FINE)` (R256). -/
def pitchClamp (b : Build) (raw : Int) : Nat :=
  (clampInt raw (fine b : Int) ((96 * fine b : Nat) : Int)).toNat

/-- The frequency of a note under a raw fine pitch: 0 without a note, else the ROM's value (R257, R258). -/
def pitchFreq (b : Build) (note : BitVec 8) (raw : Int) : BitVec 24 :=
  if note = 0 then 0 else freqRom b (pitchClamp b raw)

/-- The pitch path of the active channel, after its effect interpreter (R256 to R258). -/
def pitchPath (s : State) : State :=
  s.modActive fun v => { v with freq := pitchFreq s.build v.note s.pfRaw }

/-- The meaning of EREL (R251). -/
def execErel (value : BitVec 8) (s : State) : Host.Outcome State Fault Refusal := .next (erelRow value s)

/-- The meaning of EABS (R252). -/
def execEabs (value : BitVec 8) (s : State) : Host.Outcome State Fault Refusal := .next (eabsRow value s)

/-- The meaning of EDET (R253). -/
def execEdet (value : BitVec 8) (s : State) : Host.Outcome State Fault Refusal := .next (edetRow value s)

/-- The meaning of ERSV (R254). -/
def execErsv (value : BitVec 8) (s : State) : Host.Outcome State Fault Refusal := .next (ersvRow value s)

end Sys2Proof.Machine
end

