-- ==== Sys2Proof/Machine/FilterRows.lean ====
section
/-! DEFINITION. The filter-program rows (`44_filter_program.md`). A filter row writes the four registers of the one shared
filter and no per-channel register (R230). -/

namespace Sys2Proof.Machine

/-- A filter row: the new cutoff from the old one; resonance and type directly; the routing mask of the Instrument that
owns the program (R230). -/
def filterRow (newCutoff : BitVec 5 → BitVec 5) (res : BitVec 4) (ftype : BitVec 3) (s : State) : State :=
  s.withFilter (newCutoff s.fCutoff) res ftype (s.insRoute s.activeVoice.curIns.toNat)

/-- FSET: `f_cutoff <- value` (R231). -/
def fsetRow (value : BitVec 5) (res : BitVec 4) (ftype : BitVec 3) (s : State) : State :=
  filterRow (fun _ => value) res ftype s

/-- FINC: `f_cutoff <- min(31, f_cutoff + value)` (R232). -/
def fincRow (value : BitVec 5) (res : BitVec 4) (ftype : BitVec 3) (s : State) : State :=
  filterRow (fun k => incClamp cutMax k value) res ftype s

/-- FDEC: `f_cutoff <- max(0, f_cutoff − value)` (R233). -/
def fdecRow (value : BitVec 5) (res : BitVec 4) (ftype : BitVec 3) (s : State) : State :=
  filterRow (fun k => decClamp k value) res ftype s

/-- FRSV: `f_cutoff` is unchanged, the common writes are done (R234); the value is ignored. -/
def frsvRow (_value : BitVec 5) (res : BitVec 4) (ftype : BitVec 3) (s : State) : State :=
  filterRow (fun k => k) res ftype s

/-- The meaning of FSET (R231). -/
def execFset (value : BitVec 5) (res : BitVec 4) (ftype : BitVec 3) (s : State) : Host.Outcome State Fault Refusal :=
  .next (fsetRow value res ftype s)

/-- The meaning of FINC (R232). -/
def execFinc (value : BitVec 5) (res : BitVec 4) (ftype : BitVec 3) (s : State) : Host.Outcome State Fault Refusal :=
  .next (fincRow value res ftype s)

/-- The meaning of FDEC (R233). -/
def execFdec (value : BitVec 5) (res : BitVec 4) (ftype : BitVec 3) (s : State) : Host.Outcome State Fault Refusal :=
  .next (fdecRow value res ftype s)

/-- The meaning of FRSV (R234). -/
def execFrsv (value : BitVec 5) (res : BitVec 4) (ftype : BitVec 3) (s : State) : Host.Outcome State Fault Refusal :=
  .next (frsvRow value res ftype s)

end Sys2Proof.Machine
end

