-- ==== Sys2Proof/Machine/Flags.lean ====
section
/-! DEFINITION. The flag register `flags[c]`, the machine's only flags (`10_state.md` R26). No arithmetic result sets a
flag and no row reads one: the wave rows latch all seven bits (R211), SILENCE clears them. -/

namespace Sys2Proof.Machine

/-- GATE, `flags[c][0]` (R26). -/
def flagGate (f : BitVec 7) : Bool := f.getLsbD 0
/-- TRI, `flags[c][1]` (R26). -/
def flagTri (f : BitVec 7) : Bool := f.getLsbD 1
/-- SAW, `flags[c][2]` (R26). -/
def flagSaw (f : BitVec 7) : Bool := f.getLsbD 2
/-- PULSE, `flags[c][3]` (R26). -/
def flagPulse (f : BitVec 7) : Bool := f.getLsbD 3
/-- NOISE, `flags[c][4]` (R26). -/
def flagNoise (f : BitVec 7) : Bool := f.getLsbD 4
/-- RING, `flags[c][5]` (R26). -/
def flagRing (f : BitVec 7) : Bool := f.getLsbD 5
/-- SYNC, `flags[c][6]` (R26). -/
def flagSync (f : BitVec 7) : Bool := f.getLsbD 6

/-- The flag latch: `flags[c] <- row[13:7]`, the same bit order in both (R91, R211). -/
def latchFlags (wflags : BitVec 7) (v : Voice) : Voice := { v with flags := wflags }

/-- The effective gate `g[c] = note_gate[c] & flags[c][0]` (R162). -/
def effectiveGate (v : Voice) : Bool := v.noteGate && flagGate v.flags

end Sys2Proof.Machine
end

