-- ==== Sys2Proof/Machine/Wave.lean ====
section
/-! DEFINITION. The wave-program rows (`43_instrument_program.md`). A wave row writes `flags` and `pw` of the channel
whose interpreter executes it, and nothing else (R210). -/

namespace Sys2Proof.Machine

/-- A wave row: the new pulse width from the old one, and the flag latch of every wave row (R210, R211). -/
def waveRow (newPw : BitVec 5 → BitVec 5) (wflags : BitVec 7) (s : State) : State :=
  s.modActive fun v => { latchFlags wflags v with pw := newPw v.pw }

/-- WSET: `pw[c] <- value` (R212). -/
def wsetRow (value : BitVec 5) (wflags : BitVec 7) (s : State) : State :=
  waveRow (fun _ => value) wflags s

/-- WINC: `pw[c] <- min(31, pw[c] + value)` (R213). -/
def wincRow (value : BitVec 5) (wflags : BitVec 7) (s : State) : State :=
  waveRow (fun p => incClamp pwMax p value) wflags s

/-- WDEC: `pw[c] <- max(0, pw[c] − value)` (R214). -/
def wdecRow (value : BitVec 5) (wflags : BitVec 7) (s : State) : State :=
  waveRow (fun p => decClamp p value) wflags s

/-- WRSV: the flag latch alone (R215); the value is ignored. -/
def wrsvRow (_value : BitVec 5) (wflags : BitVec 7) (s : State) : State :=
  waveRow (fun p => p) wflags s

/-- The meaning of WSET (R212). -/
def execWset (value : BitVec 5) (wflags : BitVec 7) (s : State) : Host.Outcome State Fault Refusal :=
  .next (wsetRow value wflags s)

/-- The meaning of WINC (R213). -/
def execWinc (value : BitVec 5) (wflags : BitVec 7) (s : State) : Host.Outcome State Fault Refusal :=
  .next (wincRow value wflags s)

/-- The meaning of WDEC (R214). -/
def execWdec (value : BitVec 5) (wflags : BitVec 7) (s : State) : Host.Outcome State Fault Refusal :=
  .next (wdecRow value wflags s)

/-- The meaning of WRSV (R215). -/
def execWrsv (value : BitVec 5) (wflags : BitVec 7) (s : State) : Host.Outcome State Fault Refusal :=
  .next (wrsvRow value wflags s)

end Sys2Proof.Machine
end

