-- ==== Sys2Proof/Machine/Interp.lean ====
section
/-! DEFINITION. The program interpreters (`42_interpreter_core.md`): when one executes, what it fetches, how its cursor
moves. The only transfer of control is the wrap from the effective length to the effective loop (R193). -/

namespace Sys2Proof.Machine

/-- The effective length `len_e = min(len, MAX)` (R192). -/
def effectiveLength (len max : Nat) : Nat := min len max

/-- The effective loop: `loop` if it is below the effective length, else 0 (R192). -/
def effectiveLoop (lenE loop : Nat) : Nat := if loop < lenE then loop else 0

/-- FETCHSTEP's step (1): the row a cursor names, re-bound to the loop point if the program was shortened under it
(R193). -/
def fetchIndex (lenE loopE pos : Nat) : Nat := if lenE ≤ pos then loopE else pos

/-- FETCHSTEP's step (4): the row after the one executed, wrapping from the length to the loop (R193). -/
def advanceIndex (lenE loopE p : Nat) : Nat := if lenE ≤ p + 1 then loopE else p + 1

/-- What FETCHSTEP reads of a program's header: the row to execute and the cursor afterwards; nothing for a program whose
effective length is 0, which does not execute (R191, R193). -/
def fetchPlan (header : Word16) (max : Nat) (pos : BitVec 8) : Option (Nat × BitVec 8) :=
  let lenE := effectiveLength (headerLength header) max
  let loopE := effectiveLoop lenE (headerLoop header)
  if lenE = 0 then none
  else
    let p := fetchIndex lenE loopE pos.toNat
    some (p, BitVec.ofNat 8 (advanceIndex lenE loopE p))

/-- Executes a fetched row (R193 step 3). A program holds rows and nothing else (R90), so the other instructions never
come here. -/
def runRow (i : Instr) (s : State) : State :=
  match i with
  | .wset value wflags => wsetRow value wflags s
  | .winc value wflags => wincRow value wflags s
  | .wdec value wflags => wdecRow value wflags s
  | .wrsv value wflags => wrsvRow value wflags s
  | .fset value res ftype => fsetRow value res ftype s
  | .finc value res ftype => fincRow value res ftype s
  | .fdec value res ftype => fdecRow value res ftype s
  | .frsv value res ftype => frsvRow value res ftype s
  | .erel value => erelRow value s
  | .eabs value => eabsRow value s
  | .edet value => edetRow value s
  | .ersv value => ersvRow value s
  | .noteOn _ _ _ _ | .noteOff _ | .adopt _ _ _ | .silence | .mute _ _ | .run _ => s
  | .crsv0 | .crsv5 | .crsv6 | .crsv7 | .crsv8 | .crsv9 | .crsv10 | .crsv11 | .crsv12 | .crsv13 | .crsv14
  | .crsv15 => s
  | .pmwrite _ _ _ | .tick => s

/-- The plan of the active channel's wave interpreter, which executes if an Instrument is assigned and its wave program
is not empty (R191). -/
def State.wavePlan (s : State) : Option (Nat × BitVec 8) :=
  let v := s.activeVoice
  if v.curIns = 0 then none
  else fetchPlan (s.insWord v.curIns.toNat 1) (maxInstrumentLength s.build) v.insPos

/-- The plan of the active channel's filter interpreter (R191). -/
def State.filterPlan (s : State) : Option (Nat × BitVec 8) :=
  let v := s.activeVoice
  if v.curIns = 0 then none
  else fetchPlan (s.insWord v.curIns.toNat 3) (maxFilterLength s.build) v.fltPos

/-- The plan of the active channel's effect interpreter (R191). -/
def State.effectPlan (s : State) : Option (Nat × BitVec 8) :=
  let v := s.activeVoice
  if v.curFx = 0 then none
  else fetchPlan (s.fxWord v.curFx.toNat 0) (maxEffectLength s.build) v.fxPos

/-- `IMEM[cur_ins[c]].wave[p]` of the active channel (R68). -/
def State.waveRowAt (s : State) (p : Nat) : Word16 := s.insWord s.activeVoice.curIns.toNat (4 + p)

/-- `IMEM[cur_ins[c]].filt[p]` of the active channel (R68). -/
def State.filterRowAt (s : State) (p : Nat) : Word16 :=
  s.insWord s.activeVoice.curIns.toNat (4 + maxInstrumentLength s.build + p)

/-- `FMEM[cur_fx[c]].rows[p]` of the active channel (R69). -/
def State.effectRowAt (s : State) (p : Nat) : Word16 := s.fxWord s.activeVoice.curFx.toNat (1 + p)

/-- The wave interpreter of the active channel: FETCHSTEP on a W row (R191, R193). -/
def waveStep (s : State) : State :=
  match s.wavePlan with
  | none => s
  | some (p, next) =>
    (runRow (decodeWave (s.waveRowAt p)) s).modActive fun v => { v with insPos := next }

/-- The filter interpreter of the active channel: FETCHSTEP on an F row (R191, R193). -/
def filterStep (s : State) : State :=
  match s.filterPlan with
  | none => s
  | some (p, next) =>
    (runRow (decodeFilter (s.filterRowAt p)) s).modActive fun v => { v with fltPos := next }

/-- The effect interpreter of the active channel: FETCHSTEP on an E row, over the base note's pitch, which stands where
no row executes (R191, R193, R255). -/
def effectStep (s : State) : State :=
  match s.effectPlan with
  | none => s.withPfRaw s.basePitch
  | some (p, next) =>
    (runRow (decodeEffect (s.effectRowAt p)) (s.withPfRaw s.basePitch)).modActive fun v => { v with fxPos := next }

/-- The interpreters of channel `c`: wave, filter, effect, then the pitch path (R196, R290 phase 1). -/
def interpretChannel (s : State) (c : Nat) : State :=
  pitchPath (effectStep (filterStep (waveStep (s.withActive c))))

/-- Interprets the channels `0, …, n−1` in ascending order (R196). -/
def interpretBelow (s : State) : Nat → State
  | 0 => s
  | n + 1 => interpretChannel (interpretBelow s n) n

/-- Phase 1 of a TICK (R290); the model's own row context is cleared afterwards. -/
def interpretAll (s : State) : State :=
  ((interpretBelow s (channelCount s.build)).withActive 0).withPfRaw 0

end Sys2Proof.Machine
end

