-- ==== Sys2Proof/Machine/VoiceEngine.lean ====
section
/-! DEFINITION. The voice's datapath (`41_voice_engine.md`): oscillator, noise, waveforms, ring, envelope, output. -/

namespace Sys2Proof.Machine

/-- `sum[c] = phase[c] + freq[c]`, 25 bits (R151). -/
def phaseSum (v : Voice) : BitVec 25 := v.phase.zeroExtend 25 + v.freq.zeroExtend 25

/-- `wrap[c] = sum[c][24]` (R151). -/
def phaseWrap (v : Voice) : Bool := (phaseSum v).getLsbD 24

/-- The new phase, with hard sync on the neighbour's wrap of this tick (R151, R152). -/
def nextPhase (v : Voice) (neighbourWrap : Bool) : BitVec 24 :=
  if flagSync v.flags && neighbourWrap then 0 else (phaseSum v).extractLsb' 0 24

/-- One step of the noise register: shift left by one, taps 22 and 17 into bit 0 (R153). -/
def lfsrStep (l : BitVec 23) : BitVec 23 :=
  l.extractLsb' 0 22 ++ BitVec.ofBool (l.getLsbD 22 ^^ l.getLsbD 17)

/-- The noise register is clocked when bit 19 of the phase goes from 0 to 1 (R153). -/
def nextLfsr (l : BitVec 23) (old new : BitVec 24) : BitVec 23 :=
  if !old.getLsbD 19 && new.getLsbD 19 then lfsrStep l else l

/-- Phase 2 for one voice: phase, then noise (R151 to R153). -/
def oscillate (neighbourWrap : Bool) (v : Voice) : Voice :=
  { v with phase := nextPhase v neighbourWrap, lfsr := nextLfsr v.lfsr v.phase (nextPhase v neighbourWrap) }

/-- Phase 2 of a TICK: every carry is taken from the phases before any is rewritten (R152, R290). -/
def oscillateAll (s : State) : State :=
  s.withVoices (s.voices.mapIdx fun c v => oscillate (phaseWrap (s.voice (neighbour s.build c))) v)

/-- Sawtooth (R154). -/
def sawWave (v : Voice) : BitVec 12 := v.phase.extractLsb' 12 12

/-- Triangle (R155). -/
def triWave (v : Voice) : BitVec 12 :=
  if v.phase.getLsbD 23 then ~~~(v.phase.extractLsb' 11 12) else v.phase.extractLsb' 11 12

/-- Pulse (R156). -/
def pulseWave (v : Voice) : BitVec 12 :=
  if (v.phase.extractLsb' 19 5).toNat < v.pw.toNat then 0xFFF else 0x000

/-- Noise (R157). -/
def noiseWave (v : Voice) : BitVec 12 := v.lfsr.extractLsb' 11 12

/-- A shape that is not selected leaves the AND of the others alone (R158). -/
def selectShape (on : Bool) (shape : BitVec 12) : BitVec 12 := if on then shape else 0xFFF

/-- Whether any shape flag is set (R158). -/
def anyShape (f : BitVec 7) : Bool := flagTri f || flagSaw f || flagPulse f || flagNoise f

/-- `gen[c]`: the AND of the selected shapes, 0x800 with none selected (R158). -/
def genWave (v : Voice) : BitVec 12 :=
  if anyShape v.flags then
    selectShape (flagTri v.flags) (triWave v) &&& selectShape (flagSaw v.flags) (sawWave v)
      &&& selectShape (flagPulse v.flags) (pulseWave v) &&& selectShape (flagNoise v.flags) (noiseWave v)
  else 0x800

/-- `wv[c]`: ring modulation with the neighbour's generated waveform of the same tick (R159). -/
def ringWave (s : State) (c : Nat) : BitVec 12 :=
  let v := s.voice c
  if flagRing v.flags then genWave v ^^^ genWave (s.voice (neighbour s.build c)) else genWave v

/-- `ws[c] = wv[c] − 2048` (R160). -/
def signedWave (wv : BitVec 12) : Int := (wv.toNat : Int) - 2048

/-- The attack nibble of an ADSR word (R64). -/
def attackNibble (w : Word16) : BitVec 4 := w.extractLsb' 12 4
/-- The decay nibble (R64). -/
def decayNibble (w : Word16) : BitVec 4 := w.extractLsb' 8 4
/-- The sustain nibble (R64). -/
def sustainNibble (w : Word16) : BitVec 4 := w.extractLsb' 4 4
/-- The release nibble (R64). -/
def releaseNibble (w : Word16) : BitVec 4 := w.extractLsb' 0 4

/-- The gate transitions, tested first at every tick (R163). -/
def gateStage (g : Bool) (st : Stage) : Stage :=
  match g, st with
  | true, .idle | true, .release => .attack
  | false, .attack | false, .decay | false, .sustain => .release
  | true, .attack | true, .decay | true, .sustain => st
  | false, .idle | false, .release => st

/-- The ATTACK step (R164). -/
def attackStep (rate acc : Nat) : Stage × Nat :=
  if envMax ≤ acc + rate then (.decay, envMax) else (.attack, acc + rate)

/-- The DECAY step (R165). -/
def decayStep (target rate acc : Nat) : Stage × Nat :=
  let acc' := if target < acc then max target (acc - rate) else acc
  (if acc' ≤ target then .sustain else .decay, acc')

/-- The RELEASE step (R167). -/
def releaseStep (rate acc : Nat) : Stage × Nat :=
  let acc' := acc - rate
  (if acc' = 0 then .idle else .release, acc')

/-- The step of a stage; SUSTAIN and IDLE change nothing (R164 to R168). -/
def stageStep (b : Build) (adsr : Word16) (st : Stage) (acc : Nat) : Stage × Nat :=
  match st with
  | .attack => attackStep (attackRate b (attackNibble adsr)) acc
  | .decay => decayStep (sustainTarget (sustainNibble adsr)) (decayRate b (decayNibble adsr)) acc
  | .sustain => (.sustain, acc)
  | .release => releaseStep (releaseRate b (releaseNibble adsr)) acc
  | .idle => (.idle, acc)

/-- The envelope of one voice in one tick: the gate test, then the step of the stage as just updated (R163). -/
def envelope (b : Build) (adsr : Word16) (v : Voice) : Voice :=
  let r := stageStep b adsr (gateStage (effectiveGate v) v.envStage) v.envAcc.toNat
  { v with envStage := r.1, envAcc := BitVec.ofNat 24 r.2 }

/-- Phase 4 of a TICK: every channel's envelope, with the ADSR word read anew (R161, R290). -/
def envelopeAll (s : State) : State :=
  s.withVoices (s.voices.map fun v => envelope s.build (s.adsr v) v)

/-- `L[c] = env_acc[c][23:16]` (R32, R169). -/
def envLevel (v : Voice) : BitVec 8 := v.envAcc.extractLsb' 16 8

/-- `v[c] = asr(ws[c] · L[c], 4)` (R170). -/
def voiceOut (wv : BitVec 12) (v : Voice) : Int := asr (signedWave wv * (envLevel v).toNat) 4

end Sys2Proof.Machine
end

