-- ==== Sys2Proof/Machine/Tick.lean ====
section
/-! DEFINITION. Routing, the shared filter, the mixer and the TICK step (`46_filter_mixer_tick.md`). -/

namespace Sys2Proof.Machine

/-- A channel's share of a sum: its output if it is audible and its routing bit is `routed`, else nothing (R270, R271). -/
def shareOf (s : State) (out : Nat → Int) (routed : Bool) (c : Nat) : Int :=
  if (s.voice c).mute = false ∧ s.fRoute.getLsbD c = routed then out c else 0

/-- `x`, the filter's input (R270). -/
def routedSum (s : State) (out : Nat → Int) : Int := sumBelow (shareOf s out true) (channelCount s.build)

/-- `d`, the direct path (R270). -/
def directSum (s : State) (out : Nat → Int) : Int := sumBelow (shareOf s out false) (channelCount s.build)

/-- `sample = sat_16(asr(mix, HEADROOM_SHIFT))` (R281). -/
def headroom (b : Build) (mix : Int) : Int := sat 16 (asr mix (headroomShift b))

/-- Phase 5: the filter steps on its input, its output joins the direct path, and the sample is written (R272, R273,
R280 to R282). -/
def mixOut (s : State) (out : Nat → Int) : State :=
  let r := filterStepFn s.build s.fState (routedSum s out) s.fCutoff s.fRes s.fType
  (s.withFState r.1).withSampleOut (BitVec.ofInt 16 (headroom s.build (directSum s out + r.2)))

/-- TICK with `run` = 1: phases 1 to 5, each completed for all channels before the next begins (R290). -/
def tickRunning (s : State) : State :=
  let osc := oscillateAll (interpretAll s)
  let env := envelopeAll osc
  mixOut env fun c => voiceOut (ringWave osc c) (env.voice c)

/-- TICK (R290, R291): with `run` = 0 the sample is 0 and nothing else changes. -/
def tickCmd (s : State) : State := if s.run then tickRunning s else s.withSampleOut 0

/-- The meaning of TICK (R290, R291). -/
def execTick (s : State) : Host.Outcome State Fault Refusal := .next (tickCmd s)

end Sys2Proof.Machine
end

