-- ==== Sys2Proof/Machine/Dispatch.lean ====
section
/-! DEFINITION. One arm per instruction: each calls its meaning. -/

namespace Sys2Proof.Machine

def exec (i : Instr) (s : State) : Host.Outcome State Fault Refusal :=
  match i with
  | .wset value wflags => Sys2Proof.Machine.execWset value wflags s
  | .winc value wflags => Sys2Proof.Machine.execWinc value wflags s
  | .wdec value wflags => Sys2Proof.Machine.execWdec value wflags s
  | .wrsv value wflags => Sys2Proof.Machine.execWrsv value wflags s
  | .fset value res ftype => Sys2Proof.Machine.execFset value res ftype s
  | .finc value res ftype => Sys2Proof.Machine.execFinc value res ftype s
  | .fdec value res ftype => Sys2Proof.Machine.execFdec value res ftype s
  | .frsv value res ftype => Sys2Proof.Machine.execFrsv value res ftype s
  | .erel value => Sys2Proof.Machine.execErel value s
  | .eabs value => Sys2Proof.Machine.execEabs value s
  | .edet value => Sys2Proof.Machine.execEdet value s
  | .ersv value => Sys2Proof.Machine.execErsv value s
  | .noteOn ch note ins fx => Sys2Proof.Machine.execNoteOn ch note ins fx s
  | .noteOff ch => Sys2Proof.Machine.execNoteOff ch s
  | .adopt ch ins fx => Sys2Proof.Machine.execAdopt ch ins fx s
  | .silence => Sys2Proof.Machine.execSilence s
  | .mute ch b => Sys2Proof.Machine.execMute ch b s
  | .run b => Sys2Proof.Machine.execRun b s
  | .crsv0 => Sys2Proof.Machine.execCrsv0 s
  | .crsv5 => Sys2Proof.Machine.execCrsv5 s
  | .crsv6 => Sys2Proof.Machine.execCrsv6 s
  | .crsv7 => Sys2Proof.Machine.execCrsv7 s
  | .crsv8 => Sys2Proof.Machine.execCrsv8 s
  | .crsv9 => Sys2Proof.Machine.execCrsv9 s
  | .crsv10 => Sys2Proof.Machine.execCrsv10 s
  | .crsv11 => Sys2Proof.Machine.execCrsv11 s
  | .crsv12 => Sys2Proof.Machine.execCrsv12 s
  | .crsv13 => Sys2Proof.Machine.execCrsv13 s
  | .crsv14 => Sys2Proof.Machine.execCrsv14 s
  | .crsv15 => Sys2Proof.Machine.execCrsv15 s
  | .pmwrite space addr data => Sys2Proof.Machine.execPmwrite space addr data s
  | .tick => Sys2Proof.Machine.execTick s

end Sys2Proof.Machine
end

