-- ==== Sys2Proof/Machine/Transport.lean ====
section
/-! DEFINITION. The host agent (`47_transport_host.md`): what the transport's operations and the editor's writes to the
Song do. A command the transport issues is put before the waiting events as its word, so that the next steps decode and
execute it (R309, R333). -/

namespace Sys2Proof.Machine

/-- Where `table[b][c]` stands in the Song's block table (DESIGN CHOICE, log entry 8). -/
def tableAddr (b c : Nat) : Nat := 16 * b + c

/-- Where byte `k` of `track[t].row[r]` stands in the Song's tracks (DESIGN CHOICE, log entry 8). -/
def trackAddr (build : Build) (t r k : Nat) : Nat := 3 * (trackLength build * t + r) + k

/-- `table[b][c]` (R320). -/
def State.tableEntry (s : State) (b c : Nat) : Byte := readByte s.transport.song.table (tableAddr b c)

/-- Byte `k` of `track[t].row[r]`: note, instrument, effect (R320). -/
def State.trackByte (s : State) (t r k : Nat) : Byte := readByte s.transport.song.tracks (trackAddr s.build t r k)

/-- `ROWLEN(r)`: `tempo + swing` on the rows of parity SWING_PHASE, else `tempo` (R307). -/
def rowLen (b : Build) (song : Song) (r : Nat) : Nat :=
  if r % 2 = swingPhase b then song.tempo.toNat + song.swing.toNat else song.tempo.toNat

/-- Rewrites the transport. -/
def State.modTransport (s : State) (f : Transport → Transport) : State := s.withTransport (f s.transport)

/-- Rewrites the Song. -/
def State.modSong (s : State) (f : Song → Song) : State :=
  s.modTransport fun t => { t with song := f t.song }

/-- `play()` (R301). -/
def playOp (s : State) : State :=
  match s.transport.tstate with
  | .playing => s
  | .stopped | .paused =>
    (s.modTransport fun t => { t with tstate := .playing }).issue [.command (runCommandWord true)]

/-- `pause()` (R302). -/
def pauseOp (s : State) : State :=
  match s.transport.tstate with
  | .playing => (s.modTransport fun t => { t with tstate := .paused }).issue [.command (runCommandWord false)]
  | .stopped | .paused => s

/-- `stop()`: RUN 0, then SILENCE (R303). -/
def stopOp (s : State) : State :=
  (s.modTransport fun t => { t with tstate := .stopped, block := 0, row := 0, frame := 0 }).issue
    [.command (runCommandWord false), .command silenceCommandWord]

/-- The block a seek selects: clamped to the last valid one (R304); in a Song of no blocks, a free value (log entry 9). -/
def seekTarget (song : Song) (n : Nat) : Nat :=
  if song.tableLength = 0 then Config.seekInEmptySong n else min n (song.tableLength.toNat - 1)

/-- `block(n)` (R304). -/
def seekOp (n : Nat) (s : State) : State :=
  s.modTransport fun t => { t with block := seekTarget t.song n, row := 0, frame := 0 }

/-- `block_loop(b)` (R305). -/
def blockLoopOp (b : Bool) (s : State) : State := s.modTransport fun t => { t with blockLoop := b }

/-- `set_channel_active(c, a)`: MUTE c, NOT a (R306). -/
def setActiveOp (c : Chan) (a : Bool) (s : State) : State := s.issue [.command (muteCommandWord c (!a))]

/-- The command a row dispatch issues for channel `c`: none where the block entry names no track (R310, R311). -/
def dispatchChannel (s : State) (c : Nat) : List Event :=
  let t := (s.tableEntry s.transport.block c).toNat
  let r := s.transport.row
  if 1 ≤ t ∧ t ≤ trackCount s.build then
    [.command (rowCommandWord (BitVec.ofNat 4 c) (s.trackByte t r 0) (s.trackByte t r 1) (s.trackByte t r 2))]
  else []

/-- DISPATCH: the commands of the current row, channels in ascending order (R310). -/
def dispatchBelow (s : State) : Nat → List Event
  | 0 => []
  | n + 1 => dispatchBelow s n ++ dispatchChannel s n

/-- One pass of the loop of `fill_buffer`: the dispatch on a row's first sample, the TICK, the store, and while PLAYING
the frame's advance (R309). -/
def sampleOp (s : State) : State :=
  match s.transport.tstate with
  | .playing =>
    s.issue ((if s.transport.frame = 0 then dispatchBelow s (channelCount s.build) else [])
      ++ [.tick, .storeSample, .advanceFrame])
  | .stopped | .paused => s.issue [.tick, .storeSample]

/-- `fill_buffer(dest, n)`: `n` passes, one at a time (R309). -/
def fillBufferOp (n : Nat) (s : State) : State :=
  match n with
  | 0 => s
  | k + 1 => s.issue [.sample, .fillBuffer k]

/-- `dest[k] <- sample_out` (R309). -/
def storeSampleOp (s : State) : State := s.modTransport fun t => { t with dest := t.dest ++ [s.sampleOut] }

/-- ENDROW: end of row, of block and of song; the automatic stop performs the whole of `stop()` (R312). -/
def endRow (s : State) : State :=
  let t := s.transport
  if trackLength s.build ≤ t.row + 1 then
    if t.song.tableLength.toNat ≤ t.block + 1 then
      if t.blockLoop then s.modTransport fun t => { t with frame := 0, row := 0, block := 0 } else stopOp s
    else s.modTransport fun t => { t with frame := 0, row := 0, block := t.block + 1 }
  else s.modTransport fun t => { t with frame := 0, row := t.row + 1 }

/-- `frame <- frame + 1`, and ENDROW where the row is full (R309). -/
def advanceFrameOp (s : State) : State :=
  let s' := s.modTransport fun t => { t with frame := t.frame + 1 }
  if rowLen s.build s.transport.song s.transport.row ≤ s'.transport.frame then endRow s' else s'

/-- The editor writes `table[b][c]`; an entry the Song does not have is a silent no-op (R311, R320). -/
def setTableOp (b c : Nat) (t : Byte) (s : State) : State :=
  if b < maxSongLength s.build ∧ c < channelCount s.build then
    s.modSong fun g => { g with table := writeByte g.table (tableAddr b c) t }
  else s

/-- The three bytes of a track row, written in place. -/
def writeTrackRow (build : Build) (t r : Nat) (note ins fx : Byte) (m : Memory) : Memory :=
  writeByte (writeByte (writeByte m (trackAddr build t r 0) note) (trackAddr build t r 1) ins)
    (trackAddr build t r 2) fx

/-- The editor writes `track[t].row[r]`; a row the Song does not have is a silent no-op (R320). -/
def setTrackRowOp (t r : Nat) (note ins fx : Byte) (s : State) : State :=
  if 1 ≤ t ∧ t ≤ trackCount s.build ∧ r < trackLength s.build then
    s.modSong fun g => { g with tracks := writeTrackRow s.build t r note ins fx g.tracks }
  else s

/-- Hardware reset: every register at its reset value; program memory, the Song and the events still to come stand
(R40, R83, R360, R361). -/
def hardwareResetOp (s : State) : State :=
  (State.resetOf s.build s.imem s.fmem s.transport.song).withPending s.pending

/-- A Song within its invariants: `tempo` is not 0, `table_length` is in 1..MAX_SONG_LENGTH, and every block entry is in
0..TRACK_COUNT (R313, R320; `93_implementation_defined.md` U9). -/
abbrev SongOk (b : Build) (g : Song) : Prop :=
  1 ≤ g.tempo.toNat ∧ 1 ≤ g.tableLength.toNat ∧ g.tableLength.toNat ≤ maxSongLength b
    ∧ ∀ k, k < maxSongLength b → ∀ c, c < channelCount b → (readByte g.table (tableAddr k c)).toNat ≤ trackCount b

/-- Launches the machine: a degenerate Song is refused, any other is accepted with any program memory (R83, R313, R362).
An editor can still make the Song degenerate later; the rules then apply as they stand (R311, R313). -/
def launch (b : Build) (imem fmem : Memory) (song : Song) : Host.Outcome State Fault Refusal :=
  if SongOk b song then .next (State.resetOf b imem fmem song) else .refused .degenerateSong

/-- What an event of the host agent does; the block's own three kinds are executed by `exec` instead. -/
def hostEvent (e : Event) (s : State) : State :=
  match e with
  | .command _ | .pmWrite _ | .tick => s
  | .hardwareReset => hardwareResetOp s
  | .play => playOp s
  | .pause => pauseOp s
  | .stop => stopOp s
  | .seek n => seekOp n s
  | .setBlockLoop b => blockLoopOp b s
  | .setChannelActive c a => setActiveOp c a s
  | .fillBuffer n => fillBufferOp n s
  | .sample => sampleOp s
  | .storeSample => storeSampleOp s
  | .advanceFrame => advanceFrameOp s
  | .setTempo v => s.modSong fun g => { g with tempo := v }
  | .setSwing v => s.modSong fun g => { g with swing := v }
  | .setTableLength v => s.modSong fun g => { g with tableLength := v }
  | .setTable b c t => setTableOp b c t s
  | .setTrackRow t r note ins fx => setTrackRowOp t r note ins fx s

/-- The samples of one block: `TRACK_LENGTH · tempo + (TRACK_LENGTH/2) · swing`, for `tempo ≥ 1` (R308). -/
def blockDuration (b : Build) (song : Song) : Nat :=
  trackLength b * song.tempo.toNat + trackLength b / 2 * song.swing.toNat

/-- What a host presents to render the whole Song (R323). -/
def fullRender (b : Build) (song : Song) : List Event :=
  [.stop, .setBlockLoop false, .play, .fillBuffer (song.tableLength.toNat * blockDuration b song)]

/-! The status reads of the block (R141) and the queries of the transport (R322): each reads the state between ticks and
changes nothing. -/

/-- The host's read of `run` (R141). -/
def readRun (s : State) : Bool := s.run

/-- The host's read of `mute[c]`; 0 for a channel that does not exist (R141). -/
def readMute (s : State) (c : Nat) : Bool := if c < channelCount s.build then (s.voice c).mute else false

/-- The host's read of `sample_out` (R141). -/
def readSampleOut (s : State) : Word16 := s.sampleOut

/-- `is_channel_active(c)` (R141, R322). -/
def isChannelActive (s : State) (c : Nat) : Bool := !readMute s c

/-- `row()` (R322). -/
def queryRow (s : State) : Nat := s.transport.row

/-- `block()` (R322). -/
def queryBlock (s : State) : Nat := s.transport.block

/-- `is_playing()` (R322). -/
def isPlaying (s : State) : Bool := decide (s.transport.tstate = .playing)

/-- `block_loop()` (R322). -/
def queryBlockLoop (s : State) : Bool := s.transport.blockLoop

end Sys2Proof.Machine
end

