-- ==== Sys2Proof/Machine/Step.lean ====
section
/-! DEFINITION. One step: the oldest waiting event is taken and applied (`20_memory.md` R75, R76; `60_exceptions.md`
R333). With nothing waiting the machine stands still: nothing reaches it but events (R332). -/

namespace Sys2Proof.Machine

/-- One step of the machine. The block's events are decoded and executed; the host agent's are its own operations. -/
def step (s : State) : Host.Outcome State Fault Refusal :=
  match s.pending with
  | [] => .next s
  | e :: rest =>
    match eventInstr e with
    | some i => exec i (s.withPending rest)
    | none => .next (hostEvent e (s.withPending rest))

/-- Makes a wave row the one row of Instrument 1's wave program, that Instrument channel 0's, with the block running and
the cursor on the row: the fetch of the very next TICK finds it (R62, R65, R68, R191). -/
def State.withWaveRow (s : State) (row : Word16) : State :=
  ((s.withImem (writeWord (writeWord s.imem 1 0x0001) 4 row)).withRun true).modVoice 0
    fun v => { v with curIns := 1, insPos := 0 }

/-- Puts the instruction whose bits are `w` where the next step takes its instruction from: a command, a memory write or
the strobe as the oldest waiting event; a row as the wave row that a TICK, the oldest waiting event, fetches (log
entry 6). -/
def State.withFetchWord (s : State) (nbits w : Nat) : State :=
  match tableSource nbits with
  | some .strobe => s.issue [.tick]
  | some .wave => (s.withWaveRow (BitVec.ofNat 16 w)).issue [.tick]
  | some .command => s.issue [.command (BitVec.ofNat 32 w)]
  | some .pmPort => s.issue [.pmWrite (BitVec.ofNat 48 w)]
  | some .filter | some .effect | none => s

end Sys2Proof.Machine
end

