-- ==== Sys2Proof/Machine/Assembler.lean ====
section
/-! DEFINITION. The spec's notation for programs and commands (`30_encoding.md` R106 to R108) as functions: the operands
of a textual line are arguments here, and the words of an Instrument or an Effect are the PMWRITE words that store it
(`20_memory.md` R62 to R69). The characters of the notation are not modelled: they are no property of the hardware
(R106). -/

namespace Sys2Proof.Machine

/-- The flag words of a wave row, present or absent (R106). -/
def flagWords (gate tri saw pulse noise ring sync : Bool) : BitVec 7 :=
  BitVec.ofBool sync ++ BitVec.ofBool ring ++ BitVec.ofBool noise ++ BitVec.ofBool pulse ++ BitVec.ofBool saw
    ++ BitVec.ofBool tri ++ BitVec.ofBool gate

/-- The type words of a filter row (R106). -/
def typeWords (low band high : Bool) : BitVec 3 := BitVec.ofBool high ++ BitVec.ofBool band ++ BitVec.ofBool low

/-- A signed offset `+n` or `-n` assembles to `value = 0x30 + n` (R106). -/
def offsetValue (n : Int) : BitVec 8 := BitVec.ofInt 8 (0x30 + n)

/-- `ROW ch, note, ins, fx`: one of three instructions by its note (R98, R107). -/
def asmRow (ch : Chan) (note ins fx : BitVec 8) : Instr := decodeCommand (rowCommandWord ch note ins fx)

/-- WHOLD: latch flags, leave the pulse width (R108). -/
def asmWhold (wflags : BitVec 7) : Instr := .winc 0 wflags

/-- FHOLD: resonance, type and route, leave the cutoff (R108). -/
def asmFhold (res : BitVec 4) (ftype : BitVec 3) : Instr := .finc 0 res ftype

/-- ENONE: offset 0, the pitch of the base note (R108). -/
def asmEnone : Instr := .erel 0x30

/-- NOTEON ch, n, i, f (R108). -/
def asmNoteOn (ch : Chan) (note ins fx : BitVec 8) : Instr := asmRow ch note ins fx

/-- NOTEOFF ch (R108). -/
def asmNoteOff (ch : Chan) : Instr := asmRow ch 255 0 0

/-- ADOPT ch, i, f (R108). -/
def asmAdopt (ch : Chan) (ins fx : BitVec 8) : Instr := asmRow ch 0 ins fx

/-- UNMUTE ch (R108). -/
def asmUnmute (ch : Chan) : Instr := .mute ch false

/-- `TICK × n` (R107). -/
def asmTicks (n : Nat) : List Instr := List.replicate n .tick

/-- The word of a program row (R91 to R93). -/
def rowWord (i : Instr) : Word16 := BitVec.ofNat 16 (encodeNat i)

/-- A program header: length and loop (R65, R67, R69). -/
def headerWord (len loop : Nat) : Word16 := BitVec.ofNat 8 loop ++ BitVec.ofNat 8 len

/-- PMWRITE of successive words from an address (R107). -/
def asmWords (space : Space) (addr : Nat) : List Word16 → List Instr
  | [] => []
  | w :: ws => .pmwrite space (BitVec.ofNat 24 addr) w :: asmWords space (addr + 1) ws

/-- `.wave loop=l` and its rows, for Instrument `i`: the length is the number of rows (R107). -/
def asmWave (b : Build) (i loop : Nat) (rows : List Instr) : List Instr :=
  asmWords .imem (insBase b i + 1) [headerWord rows.length loop] ++ asmWords .imem (insBase b i + 4) (rows.map rowWord)

/-- `.filter loop=l` and its rows, for Instrument `i` (R107). -/
def asmFilter (b : Build) (i loop : Nat) (rows : List Instr) : List Instr :=
  asmWords .imem (insBase b i + 3) [headerWord rows.length loop]
    ++ asmWords .imem (insBase b i + 4 + maxInstrumentLength b) (rows.map rowWord)

/-- The control word: the hard-restart bit and the routing mask, its reserved bits `[14:CHANNEL_COUNT]` written as 0 (R66,
R101). -/
def controlWord (b : Build) (hr : Bool) (route : BitVec 15) : Word16 :=
  BitVec.ofBool hr ++ (route &&& BitVec.ofNat 15 (2 ^ channelCount b - 1))

/-- `.instrument i adsr=a,d,s,r hr=h route=m`: the ADSR word and the control word (R64, R66, R107). -/
def asmInstrument (b : Build) (i : Nat) (a d s r : BitVec 4) (hr : Bool) (route : BitVec 15) : List Instr :=
  asmWords .imem (insBase b i) [a ++ d ++ s ++ r] ++ asmWords .imem (insBase b i + 2) [controlWord b hr route]

/-- `.effect e loop=l` and its rows (R107). -/
def asmEffect (b : Build) (e loop : Nat) (rows : List Instr) : List Instr :=
  asmWords .fmem (fxBase b e) (headerWord rows.length loop :: rows.map rowWord)

end Sys2Proof.Machine
end

