-- ==== Sys2Proof/Safety.lean ====
section
/-! DEFINITION. What counts as a safe state and a safe run, the frames of the instruction shapes, and the relations the
statements are written in. -/

namespace Sys2Proof.Machine

/-! The invariant of every state a run reaches. -/

/-- The bounds of one channel's registers that the spec derives (R23, R30, R33, R172). -/
abbrev VoiceInv (b : Build) (v : Voice) : Prop :=
  v.curIns.toNat ≤ instrumentCount b ∧ v.curFx.toNat ≤ effectCount b ∧ v.lfsr ≠ 0
    ∧ (v.envStage = .idle → v.envAcc = 0)

/-- The Song's memories are in canonical form. -/
abbrev SongInv (g : Song) : Prop := g.table.wf = true ∧ g.tracks.wf = true

/-- The state invariant: CHANNEL_COUNT channels (R21), each within its bounds (R172), no routing bit of a channel that
does not exist (R34), and memories in canonical form with nothing outside their spaces (R62, R63, R82). -/
abbrev StateInv (s : State) : Prop :=
  s.voices.length = channelCount s.build
    ∧ (∀ v ∈ s.voices, VoiceInv s.build v)
    ∧ s.fRoute.toNat < 2 ^ channelCount s.build
    ∧ s.imem.wf = true ∧ Memory.below (2 * imemWords s.build) s.imem = true
    ∧ s.fmem.wf = true ∧ Memory.below (2 * fmemWords s.build) s.fmem = true
    ∧ SongInv s.transport.song

/-- A state from which no run of any length stops: every step answers a next state (R330). -/
def NeverStops (s : State) : Prop := ∀ k, ∃ t, Host.Core.run Sys2Proof.core k s = .next t

/-- A program header within its intended ranges: 0 < length ≤ MAX and loop < length (R192). -/
abbrev HeaderOk (header : Word16) (max : Nat) : Prop :=
  headerLength header ≤ max ∧ headerLoop header < headerLength header

/-! Frames: what a shape of instruction leaves alone. -/

/-- Every byte of program memory reads as before. -/
def SameMemory (s t : State) : Prop := ∀ a, readByte t.imem a = readByte s.imem a ∧ readByte t.fmem a = readByte s.fmem a

/-- The filter's control registers and its memory are as before. -/
def SameFilter (s t : State) : Prop :=
  t.fCutoff = s.fCutoff ∧ t.fRes = s.fRes ∧ t.fType = s.fType ∧ t.fRoute = s.fRoute ∧ t.fState = s.fState

/-- The build, the run register, the waiting events, the host agent and the model's own row context are as before. -/
def SameRest (s t : State) : Prop :=
  t.build = s.build ∧ t.run = s.run ∧ t.pending = s.pending ∧ t.transport = s.transport
    ∧ t.active = s.active ∧ t.pfRaw = s.pfRaw

/-- No channel appears or disappears, and every channel but `c` is as before. -/
def SameOtherVoices (c : Nat) (s t : State) : Prop :=
  t.voices.length = s.voices.length ∧ ∀ d, d ≠ c → t.voice d = s.voice d

/-- Every channel is as before. -/
def SameVoices (s t : State) : Prop := t.voices.length = s.voices.length ∧ ∀ d, t.voice d = s.voice d

/-- The frame of an instruction that writes registers of channel `c` and nothing else. -/
def OneVoiceFrame (c : Nat) (s t : State) : Prop :=
  SameOtherVoices c s t ∧ SameFilter s t ∧ SameRest s t ∧ t.sampleOut = s.sampleOut ∧ SameMemory s t

/-- The frame of a filter row: everything but the four filter control registers (R230). -/
def FilterRowFrame (s t : State) : Prop :=
  SameVoices s t ∧ t.fState = s.fState ∧ SameRest s t ∧ t.sampleOut = s.sampleOut ∧ SameMemory s t

/-- The frame of an effect row: every register; it yields the raw fine pitch alone (R250). -/
def EffectRowFrame (s t : State) : Prop :=
  SameVoices s t ∧ SameFilter s t ∧ t.build = s.build ∧ t.run = s.run ∧ t.pending = s.pending
    ∧ t.transport = s.transport ∧ t.active = s.active ∧ t.sampleOut = s.sampleOut ∧ SameMemory s t

/-! Muting. -/

/-- A state without what a mute can reach: the mute bits, the filter's own memory and the output register (R374). -/
def State.eraseMute (s : State) : State :=
  { s with
    voices := s.voices.map fun v => { v with mute := false }
    fState := default
    sampleOut := 0 }

/-- Equal but for what a mute can reach (R374). -/
abbrev SameButMute (s t : State) : Prop := s.eraseMute = t.eraseMute

/-! Runs of the events a host has presented. -/

/-- `s` comes to `t` by steps that apply waiting events, until none waits. -/
def Drains (s t : State) : Prop := t.pending = [] ∧ ∃ k, Host.Core.run Sys2Proof.core k s = .next t

/-- With the events `es` presented in `s`, the machine comes to `t` by the steps that apply them and the commands they
issue, and only what waited behind them waits still, whatever that is. How many steps that takes is the model's own (log
entry 10). -/
def Applied (es : List Event) (s t : State) : Prop :=
  ∀ rest : List Event, ∃ k, Host.Core.run Sys2Proof.core k (s.withPending (es ++ rest)) = .next (t.withPending rest)

/-- One event presented and applied. -/
abbrev Presented (e : Event) (s t : State) : Prop := Applied [e] s t

/-- The next state after an instruction, where there is one. -/
def nextOf (o : Host.Outcome State Fault Refusal) : Option State :=
  match o with
  | .next t => some t
  | .fault _ => none
  | .refused _ => none

end Sys2Proof.Machine
end

