-- ==== Sys2Proof/Certificates/Slice0/Obligations.lean ====
section
/-! DEFINITION. The statements for the provers. Each says what the spec's numbered rules say an instruction or the machine
does; OBLIGATIONS.json names the rules. -/

open Sys2Proof Sys2Proof.Machine

/-! Encoding. -/

/-- R91 to R99: the decoder reads back what the encoder writes, every operand at every value. -/
def Obligations.DecodeOfEncodeIsTheInstruction : Prop :=
  ∀ i : Instr, i.wellFormed = true → decode i.source (encode i) = .ok i

/-- R104: every pattern of a source's width is a well-formed instruction of that source, and it executes in every state. -/
def Obligations.EveryWordDecodesAndExecutes : Prop :=
  ∀ (src : Source) (bytes : List Byte), bytes.length = src.byteLength →
    ∃ i, decode src bytes = .ok i ∧ i.wellFormed = true ∧ i.source = src ∧ ∀ s : State, ∃ t, exec i s = .next t

/-- R101, with the reserved bits of R66, R97, R98 and R99: flipping reserved bits changes nothing, and the encoder and the
assembler write them as 0. -/
def Obligations.ReservedBitsAreIgnored : Prop :=
  (∀ w r : Word16, decodeWave (w ^^^ (r &&& 0xC000)) = decodeWave w)
    ∧ (∀ w r : Word16, decodeFilter (w ^^^ (r &&& 0x8080)) = decodeFilter w)
    ∧ (∀ w r : Word16, decodeEffect (w ^^^ (r &&& 0xFC00)) = decodeEffect w)
    ∧ (∀ w r : CmdWord, w.extractLsb' 28 4 = 1 → w.extractLsb' 0 8 = 255 →
        decodeCommand (w ^^^ (r &&& 0x00FFFF00)) = decodeCommand w)
    ∧ (∀ w r : CmdWord, w.extractLsb' 28 4 = 3 → decodeCommand (w ^^^ (r &&& 0x00FFFFFE)) = decodeCommand w)
    ∧ (∀ w r : CmdWord, w.extractLsb' 28 4 = 4 → decodeCommand (w ^^^ (r &&& 0x0FFFFFFE)) = decodeCommand w)
    ∧ (∀ w r : CmdWord, w.extractLsb' 28 4 ≠ 1 → w.extractLsb' 28 4 ≠ 3 → w.extractLsb' 28 4 ≠ 4 →
        decodeCommand (w ^^^ (r &&& 0x0FFFFFFF)) = decodeCommand w)
    ∧ (∀ w r : PmWord, decodePmw (w ^^^ (r &&& 0xFE0000000000)) = decodePmw w)
    ∧ (∀ (b : Build) (w r : Word16),
        routeMask b (w ^^^ (r &&& BitVec.ofNat 16 (2 ^ 15 - 2 ^ channelCount b))) = routeMask b w
          ∧ (w ^^^ (r &&& BitVec.ofNat 16 (2 ^ 15 - 2 ^ channelCount b))).getLsbD 15 = w.getLsbD 15)
    ∧ (∀ op value wflags, waveWord op value wflags &&& 0xC000 = 0)
    ∧ (∀ op value res ftype, filterWord op value res ftype &&& 0x8080 = 0)
    ∧ (∀ op value, effectWord op value &&& 0xFC00 = 0)
    ∧ (∀ ch, rowCommandWord ch 255 0 0 &&& 0x00FFFF00 = 0)
    ∧ silenceCommandWord &&& 0x0FFFFFFF = 0
    ∧ (∀ ch b, muteCommandWord ch b &&& 0x00FFFFFE = 0)
    ∧ (∀ b, runCommandWord b &&& 0x0FFFFFFE = 0)
    ∧ (∀ space addr data, pmWriteWord space addr data &&& 0xFE0000000000 = 0)
    ∧ (∀ (b : Build) (hr : Bool) (route : BitVec 15),
        controlWord b hr route &&& BitVec.ofNat 16 (2 ^ 15 - 2 ^ channelCount b) = 0
          ∧ (controlWord b hr route).getLsbD 15 = hr
          ∧ ∀ c, (routeMask b (controlWord b hr route)).getLsbD c = (decide (c < channelCount b) && route.getLsbD c))

/-- R109: the worked encodings, both ways. -/
def Obligations.WorkedEncodingsDecodeAndEncode : Prop :=
  ∀ p ∈ ([(.wset 16 0b0001001, 0x0490), (.winc 1 0b0001001, 0x04A1), (.wdec 3 0b0100100, 0x1243),
        (.fset 10 8 0b001, 0x180A), (.finc 2 15 0b110, 0x6F22),
        (.erel 0x3C, 0x003C), (.eabs 60, 0x013C), (.edet 0x2D, 0x022D),
        (.noteOn 2 49 5 0, 0x12000531), (.noteOff 0, 0x100000FF), (.silence, 0x20000000),
        (.mute 3 true, 0x33000001), (.run true, 0x40000001), (.pmwrite .imem 4 0x0490, 0x000000040490)] :
        List (Instr × Nat)),
    encodeNat p.1 = p.2 ∧ decode p.1.source (natToBytes p.1.source.byteLength p.2) = .ok p.1

/-- R98: the note field of a ROW command selects the instruction. -/
def Obligations.RowCommandDecodesByItsNote : Prop :=
  ∀ (ch : Chan) (note ins fx : BitVec 8),
    decodeCommand (rowCommandWord ch note ins fx) =
      if note = 0 then .adopt ch ins fx else if note = 255 then .noteOff ch else .noteOn ch note ins fx

/-! Steps and fetches. -/

/-- R75, R332: the oldest waiting event of the block is decoded and executed, and the queue moves past it. -/
def Obligations.StepExecutesTheOldestEvent : Prop :=
  (∀ w : CmdWord, eventInstr (.command w) = some (decodeCommand w))
    ∧ (∀ w : PmWord, eventInstr (.pmWrite w) = some (decodePmw w))
    ∧ eventInstr .tick = some .tick
    ∧ ∀ (s : State) (e : Event) (rest : List Event) (i : Instr),
        s.pending = e :: rest → eventInstr e = some i → step s = exec i (s.withPending rest)

/-- R191 to R193: each interpreter of the active channel executes, by exec, the row its cursor names (re-bound to the loop
point if it lies beyond the effective length) and moves its cursor on, wrapping to the loop point; where nothing is
assigned or the effective length is 0 it executes nothing. -/
def Obligations.InterpretersExecuteTheFetchedRow : Prop :=
  ∀ s : State,
    let v := s.activeVoice
    let ins := v.curIns.toNat
    let fx := v.curFx.toNat
    let plan := fun (header : Word16) (max pos : Nat) =>
      let lenE := min (headerLength header) max
      let loopE := if headerLoop header < lenE then headerLoop header else 0
      let p := if lenE ≤ pos then loopE else pos
      (p, if lenE ≤ p + 1 then loopE else p + 1)
    let w := plan (s.insWord ins 1) (maxInstrumentLength s.build) v.insPos.toNat
    let f := plan (s.insWord ins 3) (maxFilterLength s.build) v.fltPos.toNat
    let e := plan (s.fxWord fx 0) (maxEffectLength s.build) v.fxPos.toNat
    let base := s.withPfRaw ((v.note.toNat : Int) * (fine s.build : Int))
    (v.curIns ≠ 0 → 0 < min (headerLength (s.insWord ins 1)) (maxInstrumentLength s.build) →
        ∃ t, exec (decodeWave (s.insWord ins (4 + w.1))) s = .next t
          ∧ waveStep s = t.modVoice s.active fun u => { u with insPos := BitVec.ofNat 8 w.2 })
      ∧ (v.curIns = 0 ∨ min (headerLength (s.insWord ins 1)) (maxInstrumentLength s.build) = 0 → waveStep s = s)
      ∧ (v.curIns ≠ 0 → 0 < min (headerLength (s.insWord ins 3)) (maxFilterLength s.build) →
        ∃ t, exec (decodeFilter (s.insWord ins (4 + maxInstrumentLength s.build + f.1))) s = .next t
          ∧ filterStep s = t.modVoice s.active fun u => { u with fltPos := BitVec.ofNat 8 f.2 })
      ∧ (v.curIns = 0 ∨ min (headerLength (s.insWord ins 3)) (maxFilterLength s.build) = 0 → filterStep s = s)
      ∧ (v.curFx ≠ 0 → 0 < min (headerLength (s.fxWord fx 0)) (maxEffectLength s.build) →
        ∃ t, exec (decodeEffect (s.fxWord fx (1 + e.1))) base = .next t
          ∧ effectStep s = t.modVoice s.active fun u => { u with fxPos := BitVec.ofNat 8 e.2 })
      ∧ (v.curFx = 0 ∨ min (headerLength (s.fxWord fx 0)) (maxEffectLength s.build) = 0 → effectStep s = base)

/-! Wave rows. -/

/-- R212: WSET. -/
def Obligations.WsetSetsPulseWidthAndFlags : Prop :=
  (∀ row : Word16, row &&& 0x0060 = 0x0000 → decodeWave row = .wset (row.extractLsb' 0 5) (row.extractLsb' 7 7))
    ∧ ∀ (value : BitVec 5) (wflags : BitVec 7) (s : State), ∃ t, exec (.wset value wflags) s = .next t
        ∧ (s.active < s.voices.length → t.voice s.active = { s.voice s.active with pw := value, flags := wflags })
        ∧ OneVoiceFrame s.active s t

/-- R213: WINC. -/
def Obligations.WincRaisesPulseWidthToAtMost31 : Prop :=
  (∀ row : Word16, row &&& 0x0060 = 0x0020 → decodeWave row = .winc (row.extractLsb' 0 5) (row.extractLsb' 7 7))
    ∧ ∀ (value : BitVec 5) (wflags : BitVec 7) (s : State), ∃ t, exec (.winc value wflags) s = .next t
        ∧ (s.active < s.voices.length →
            (t.voice s.active).pw.toNat = min 31 ((s.voice s.active).pw.toNat + value.toNat)
              ∧ t.voice s.active = { s.voice s.active with pw := (t.voice s.active).pw, flags := wflags })
        ∧ OneVoiceFrame s.active s t

/-- R214: WDEC. -/
def Obligations.WdecLowersPulseWidthToAtLeast0 : Prop :=
  (∀ row : Word16, row &&& 0x0060 = 0x0040 → decodeWave row = .wdec (row.extractLsb' 0 5) (row.extractLsb' 7 7))
    ∧ ∀ (value : BitVec 5) (wflags : BitVec 7) (s : State), ∃ t, exec (.wdec value wflags) s = .next t
        ∧ (s.active < s.voices.length →
            ((t.voice s.active).pw.toNat : Int) = max 0 (((s.voice s.active).pw.toNat : Int) - (value.toNat : Int))
              ∧ t.voice s.active = { s.voice s.active with pw := (t.voice s.active).pw, flags := wflags })
        ∧ OneVoiceFrame s.active s t

/-- R215: WRSV. -/
def Obligations.WrsvLatchesFlagsAlone : Prop :=
  (∀ row : Word16, row &&& 0x0060 = 0x0060 → decodeWave row = .wrsv (row.extractLsb' 0 5) (row.extractLsb' 7 7))
    ∧ ∀ (value : BitVec 5) (wflags : BitVec 7) (s : State), ∃ t, exec (.wrsv value wflags) s = .next t
        ∧ (s.active < s.voices.length → t.voice s.active = { s.voice s.active with flags := wflags })
        ∧ OneVoiceFrame s.active s t

/-! Filter rows. The common writes of R230: resonance, type, and the routing mask of the owning Instrument's control word,
restricted to the channels that exist. On a channel with no Instrument there is no owning one and no run executes a filter
row (R191; log entry 18): there nothing is said of the routing mask. -/

/-- R231: FSET. -/
def Obligations.FsetSetsCutoffAndFilterRegisters : Prop :=
  (∀ row : Word16, row &&& 0x0060 = 0x0000 →
      decodeFilter row = .fset (row.extractLsb' 0 5) (row.extractLsb' 8 4) (row.extractLsb' 12 3))
    ∧ ∀ (value : BitVec 5) (res : BitVec 4) (ftype : BitVec 3) (s : State), ∃ t, exec (.fset value res ftype) s = .next t
        ∧ t.fCutoff = value ∧ t.fRes = res ∧ t.fType = ftype
        ∧ (s.activeVoice.curIns ≠ 0 → ∀ c, t.fRoute.getLsbD c =
            (decide (c < channelCount s.build) && (s.insWord s.activeVoice.curIns.toNat 2).getLsbD c))
        ∧ FilterRowFrame s t

/-- R232: FINC. -/
def Obligations.FincRaisesCutoffToAtMost31 : Prop :=
  (∀ row : Word16, row &&& 0x0060 = 0x0020 →
      decodeFilter row = .finc (row.extractLsb' 0 5) (row.extractLsb' 8 4) (row.extractLsb' 12 3))
    ∧ ∀ (value : BitVec 5) (res : BitVec 4) (ftype : BitVec 3) (s : State), ∃ t, exec (.finc value res ftype) s = .next t
        ∧ t.fCutoff.toNat = min 31 (s.fCutoff.toNat + value.toNat) ∧ t.fRes = res ∧ t.fType = ftype
        ∧ (s.activeVoice.curIns ≠ 0 → ∀ c, t.fRoute.getLsbD c =
            (decide (c < channelCount s.build) && (s.insWord s.activeVoice.curIns.toNat 2).getLsbD c))
        ∧ FilterRowFrame s t

/-- R233: FDEC. -/
def Obligations.FdecLowersCutoffToAtLeast0 : Prop :=
  (∀ row : Word16, row &&& 0x0060 = 0x0040 →
      decodeFilter row = .fdec (row.extractLsb' 0 5) (row.extractLsb' 8 4) (row.extractLsb' 12 3))
    ∧ ∀ (value : BitVec 5) (res : BitVec 4) (ftype : BitVec 3) (s : State), ∃ t, exec (.fdec value res ftype) s = .next t
        ∧ (t.fCutoff.toNat : Int) = max 0 ((s.fCutoff.toNat : Int) - (value.toNat : Int))
        ∧ t.fRes = res ∧ t.fType = ftype
        ∧ (s.activeVoice.curIns ≠ 0 → ∀ c, t.fRoute.getLsbD c =
            (decide (c < channelCount s.build) && (s.insWord s.activeVoice.curIns.toNat 2).getLsbD c))
        ∧ FilterRowFrame s t

/-- R234: FRSV. -/
def Obligations.FrsvHoldsCutoff : Prop :=
  (∀ row : Word16, row &&& 0x0060 = 0x0060 →
      decodeFilter row = .frsv (row.extractLsb' 0 5) (row.extractLsb' 8 4) (row.extractLsb' 12 3))
    ∧ ∀ (value : BitVec 5) (res : BitVec 4) (ftype : BitVec 3) (s : State), ∃ t, exec (.frsv value res ftype) s = .next t
        ∧ t.fCutoff = s.fCutoff ∧ t.fRes = res ∧ t.fType = ftype
        ∧ (s.activeVoice.curIns ≠ 0 → ∀ c, t.fRoute.getLsbD c =
            (decide (c < channelCount s.build) && (s.insWord s.activeVoice.curIns.toNat 2).getLsbD c))
        ∧ FilterRowFrame s t

/-! Effect rows and the pitch path. -/

/-- R251: EREL. -/
def Obligations.ErelOffsetsTheNote : Prop :=
  (∀ row : Word16, row &&& 0x0300 = 0x0000 → decodeEffect row = .erel (row.extractLsb' 0 8))
    ∧ ∀ (value : BitVec 8) (s : State), ∃ t, exec (.erel value) s = .next t
        ∧ t.pfRaw = ((s.activeVoice.note.toNat : Int) + ((value.toNat : Int) - 48)) * (fine s.build : Int)
        ∧ EffectRowFrame s t

/-- R252: EABS. -/
def Obligations.EabsReplacesTheNote : Prop :=
  (∀ row : Word16, row &&& 0x0300 = 0x0100 → decodeEffect row = .eabs (row.extractLsb' 0 8))
    ∧ ∀ (value : BitVec 8) (s : State), ∃ t, exec (.eabs value) s = .next t
        ∧ t.pfRaw = (value.toNat : Int) * (fine s.build : Int)
        ∧ EffectRowFrame s t

/-- R253: EDET. -/
def Obligations.EdetOffsetsByFineSteps : Prop :=
  (∀ row : Word16, row &&& 0x0300 = 0x0200 → decodeEffect row = .edet (row.extractLsb' 0 8))
    ∧ ∀ (value : BitVec 8) (s : State), ∃ t, exec (.edet value) s = .next t
        ∧ t.pfRaw = (s.activeVoice.note.toNat : Int) * (fine s.build : Int) + ((value.toNat : Int) - 48)
        ∧ EffectRowFrame s t

/-- R254: ERSV. -/
def Obligations.ErsvContributesNothing : Prop :=
  (∀ row : Word16, row &&& 0x0300 = 0x0300 → decodeEffect row = .ersv (row.extractLsb' 0 8))
    ∧ ∀ (value : BitVec 8) (s : State), ∃ t, exec (.ersv value) s = .next t
        ∧ t.pfRaw = (s.activeVoice.note.toNat : Int) * (fine s.build : Int)
        ∧ EffectRowFrame s t

/-- R256 to R258: the pitch path writes the active channel's frequency and nothing else. -/
def Obligations.PitchPathWritesTheFrequency : Prop :=
  ∀ s : State,
    let pf := (max (fine s.build : Int) (min (96 * (fine s.build : Int)) s.pfRaw)).toNat
    fine s.build ≤ pf ∧ pf ≤ 96 * fine s.build
      ∧ (s.active < s.voices.length → (pitchPath s).voice s.active =
          { s.voice s.active with freq := if (s.voice s.active).note = 0 then 0 else freqRom s.build pf })
      ∧ OneVoiceFrame s.active s (pitchPath s)

/-! Commands. -/

/-- R121, R122: NOTE_ON. -/
def Obligations.NoteOnArmsTheVoice : Prop :=
  ∀ (ch : Chan) (note ins fx : BitVec 8) (s : State), note ≠ 0 → note ≠ 255 →
    ∃ t, exec (.noteOn ch note ins fx) s = .next t
      ∧ (channelCount s.build ≤ ch.toNat → t = s)
      ∧ (ch.toNat < channelCount s.build → ch.toNat < s.voices.length →
          let v := s.voice ch.toNat
          let newIns := if 1 ≤ ins.toNat ∧ ins.toNat ≤ instrumentCount s.build then ins else v.curIns
          let newFx := if 1 ≤ fx.toNat ∧ fx.toNat ≤ effectCount s.build then fx else v.curFx
          let restart := (newIns ≠ 0 ∧ (s.insWord newIns.toNat 2).getLsbD 15 = true) ∨ v.envStage = .idle
          t.voice ch.toNat =
            { v with
              curIns := newIns
              curFx := newFx
              insPos := 0
              fltPos := 0
              fxPos := 0
              note := note
              noteGate := true
              phase := if restart then 0 else v.phase
              envAcc := if restart then 0 else v.envAcc
              envStage := if restart then .idle else v.envStage })
      ∧ OneVoiceFrame ch.toNat s t

/-- R123: NOTE_OFF. -/
def Obligations.NoteOffClearsTheGateAlone : Prop :=
  ∀ (ch : Chan) (s : State), ∃ t, exec (.noteOff ch) s = .next t
    ∧ (channelCount s.build ≤ ch.toNat → t = s)
    ∧ (ch.toNat < channelCount s.build → ch.toNat < s.voices.length →
        t.voice ch.toNat = { s.voice ch.toNat with noteGate := false })
    ∧ OneVoiceFrame ch.toNat s t

/-- R121, R124: ADOPT takes an index only where none is held. -/
def Obligations.AdoptTakesOnlyWhatIsUnassigned : Prop :=
  ∀ (ch : Chan) (ins fx : BitVec 8) (s : State), ∃ t, exec (.adopt ch ins fx) s = .next t
    ∧ (channelCount s.build ≤ ch.toNat → t = s)
    ∧ (ch.toNat < channelCount s.build → ch.toNat < s.voices.length →
        let v := s.voice ch.toNat
        let takesIns := (1 ≤ ins.toNat ∧ ins.toNat ≤ instrumentCount s.build) ∧ v.curIns = 0
        let takesFx := (1 ≤ fx.toNat ∧ fx.toNat ≤ effectCount s.build) ∧ v.curFx = 0
        t.voice ch.toNat =
          { v with
            curIns := if takesIns then ins else v.curIns
            insPos := if takesIns then 0 else v.insPos
            fltPos := if takesIns then 0 else v.fltPos
            curFx := if takesFx then fx else v.curFx
            fxPos := if takesFx then 0 else v.fxPos })
    ∧ OneVoiceFrame ch.toNat s t

/-- R125: SILENCE gives every register its reset value but `run`, `mute` and program memory. -/
def Obligations.SilenceResetsAllButRunMuteAndMemory : Prop :=
  ∀ s : State, ∃ t, exec .silence s = .next t
    ∧ t.voices.length = s.voices.length
    ∧ (∀ c, c < s.voices.length → t.voice c =
        { note := 0, curIns := 0, curFx := 0, insPos := 0, fltPos := 0, fxPos := 0, noteGate := false, flags := 0,
          pw := 0, freq := 0, phase := 0, lfsr := 0x7FFFFF, envStage := .idle, envAcc := 0,
          mute := (s.voice c).mute })
    ∧ t.fCutoff = 0 ∧ t.fRes = 0 ∧ t.fType = 0 ∧ t.fRoute = 0 ∧ t.fState = filterInit s.build ∧ t.sampleOut = 0
    ∧ SameRest s t ∧ SameMemory s t

/-- R126, R141: MUTE writes one bit, which the host reads back. R306: `set_channel_active(c, a)` is MUTE c, NOT a, in every
transport state. -/
def Obligations.MuteWritesOneBit : Prop :=
  (∀ (ch : Chan) (b : Bool) (s : State), ∃ t, exec (.mute ch b) s = .next t
    ∧ (channelCount s.build ≤ ch.toNat → t = s ∧ isChannelActive t ch.toNat = true)
    ∧ (ch.toNat < channelCount s.build → ch.toNat < s.voices.length →
        t.voice ch.toNat = { s.voice ch.toNat with mute := b } ∧ isChannelActive t ch.toNat = !b)
    ∧ OneVoiceFrame ch.toNat s t)
  ∧ ∀ (ch : Chan) (a : Bool) (s : State), ∃ t, exec (.mute ch (!a)) s = .next t ∧ Presented (.setChannelActive ch a) s t

/-- R127: RUN writes the run register. -/
def Obligations.RunWritesTheRunRegister : Prop :=
  ∀ (b : Bool) (s : State), ∃ t, exec (.run b) s = .next t
    ∧ t.run = b ∧ readRun t = b
    ∧ SameVoices s t ∧ SameFilter s t ∧ t.build = s.build ∧ t.pending = s.pending ∧ t.transport = s.transport
    ∧ t.active = s.active ∧ t.pfRaw = s.pfRaw ∧ t.sampleOut = s.sampleOut ∧ SameMemory s t

/-- R97, R104: a reserved command code decodes to an instruction that is accepted and changes nothing. -/
def Obligations.ReservedCommandsChangeNothing : Prop :=
  (∀ w : CmdWord, (w.extractLsb' 28 4 = 0 ∨ 5 ≤ (w.extractLsb' 28 4).toNat) → ∀ s : State,
      exec (decodeCommand w) s = .next s)
    ∧ ∀ s : State, ∀ i ∈ ([.crsv0, .crsv5, .crsv6, .crsv7, .crsv8, .crsv9, .crsv10, .crsv11, .crsv12, .crsv13, .crsv14,
        .crsv15] : List Instr), exec i s = .next s

/-- R82, R140: PMWRITE writes one word inside a space, and nothing at or beyond its end. -/
def Obligations.PmwriteWritesOneWord : Prop :=
  ∀ (space : Space) (addr : BitVec 24) (data : Word16) (s : State), s.imem.wf = true → s.fmem.wf = true →
    let a := addr.toNat
    let inside := a < (match space with | .imem => imemWords s.build | .fmem => fmemWords s.build)
    ∃ t, exec (.pmwrite space addr data) s = .next t
      ∧ (¬ inside → t = s)
      ∧ (inside → (match space with | .imem => readWord t.imem a | .fmem => readWord t.fmem a) = data)
      ∧ (∀ k, space = .fmem ∨ (k ≠ 2 * a ∧ k ≠ 2 * a + 1) → readByte t.imem k = readByte s.imem k)
      ∧ (∀ k, space = .imem ∨ (k ≠ 2 * a ∧ k ≠ 2 * a + 1) → readByte t.fmem k = readByte s.fmem k)
      ∧ t.imem.wf = true ∧ t.fmem.wf = true
      ∧ SameVoices s t ∧ SameFilter s t ∧ SameRest s t ∧ t.sampleOut = s.sampleOut

/-! TICK. -/

/-- R291: a TICK with `run` = 0 emits 0 and changes nothing else. -/
def Obligations.StoppedTickEmitsZeroAndFreezes : Prop :=
  ∀ s : State, s.run = false → exec .tick s = .next { s with sampleOut := 0 }

/-- R211 to R215, R290: a TICK runs one row of each armed channel's wave program: flags, pulse width and cursor. -/
def Obligations.TickRunsOneWaveRowPerArmedChannel : Prop :=
  ∀ s : State, s.run = true → s.voices.length = channelCount s.build →
    ∃ t, exec .tick s = .next t ∧ ∀ c, c < channelCount s.build →
      let v := s.voice c
      let header := s.insWord v.curIns.toNat 1
      let lenE := min (headerLength header) (maxInstrumentLength s.build)
      let loopE := if headerLoop header < lenE then headerLoop header else 0
      let p := if lenE ≤ v.insPos.toNat then loopE else v.insPos.toNat
      let row := s.insWord v.curIns.toNat (4 + p)
      let value := (row.extractLsb' 0 5).toNat
      (v.curIns = 0 ∨ lenE = 0 →
          (t.voice c).flags = v.flags ∧ (t.voice c).pw = v.pw ∧ (t.voice c).insPos = v.insPos)
        ∧ (v.curIns ≠ 0 → 0 < lenE →
          (t.voice c).flags = row.extractLsb' 7 7
            ∧ (t.voice c).pw.toNat =
                (if row &&& 0x0060 = 0x0000 then value else if row &&& 0x0060 = 0x0020 then min 31 (v.pw.toNat + value)
                  else if row &&& 0x0060 = 0x0040 then v.pw.toNat - value else v.pw.toNat)
            ∧ (t.voice c).insPos.toNat = (if lenE ≤ p + 1 then loopE else p + 1))

/-- R191, R193, R196: a TICK moves the filter and effect cursors of each armed channel by one row. -/
def Obligations.TickMovesFilterAndEffectCursors : Prop :=
  ∀ s : State, s.run = true → s.voices.length = channelCount s.build →
    ∃ t, exec .tick s = .next t ∧ ∀ c, c < channelCount s.build →
      let v := s.voice c
      let next := fun (header : Word16) (max pos : Nat) =>
        let lenE := min (headerLength header) max
        let loopE := if headerLoop header < lenE then headerLoop header else 0
        let p := if lenE ≤ pos then loopE else pos
        if lenE ≤ p + 1 then loopE else p + 1
      let fh := s.insWord v.curIns.toNat 3
      let eh := s.fxWord v.curFx.toNat 0
      (t.voice c).fltPos.toNat =
          (if v.curIns = 0 ∨ headerLength fh = 0 then v.fltPos.toNat
            else next fh (maxFilterLength s.build) v.fltPos.toNat)
        ∧ (t.voice c).fxPos.toNat =
          (if v.curFx = 0 ∨ headerLength eh = 0 then v.fxPos.toNat
            else next eh (maxEffectLength s.build) v.fxPos.toNat)

/-- R251 to R258: the frequency register after a TICK, from the note and the effect row executed in it. -/
def Obligations.TickWritesTheFrequencyOfTheEffectRow : Prop :=
  ∀ s : State, s.run = true → s.voices.length = channelCount s.build →
    ∃ t, exec .tick s = .next t ∧ ∀ c, c < channelCount s.build →
      let v := s.voice c
      let note : Int := v.note.toNat
      let step : Int := fine s.build
      let header := s.fxWord v.curFx.toNat 0
      let lenE := min (headerLength header) (maxEffectLength s.build)
      let loopE := if headerLoop header < lenE then headerLoop header else 0
      let p := if lenE ≤ v.fxPos.toNat then loopE else v.fxPos.toNat
      let row := s.fxWord v.curFx.toNat (1 + p)
      let value : Int := (row.extractLsb' 0 8).toNat
      let raw : Int :=
        if v.curFx = 0 ∨ lenE = 0 then note * step
        else if row &&& 0x0300 = 0x0000 then (note + (value - 48)) * step
        else if row &&& 0x0300 = 0x0100 then value * step
        else if row &&& 0x0300 = 0x0200 then note * step + (value - 48)
        else note * step
      (t.voice c).freq = if v.note = 0 then 0 else freqRom s.build (max step (min (96 * step) raw)).toNat

/-- R235: each channel that executes a filter row writes the shared registers in ascending channel order. -/
def Obligations.TickLetsTheLaterFilterRowWin : Prop :=
  ∀ s : State, s.run = true → s.voices.length = channelCount s.build →
    ∃ t, exec .tick s = .next t ∧
      (let header := fun c => s.insWord (s.voice c).curIns.toNat 3
      let lenE := fun c => min (headerLength (header c)) (maxFilterLength s.build)
      let loopE := fun c => if headerLoop (header c) < lenE c then headerLoop (header c) else 0
      let pos := fun c => (s.voice c).fltPos.toNat
      let row := fun c => s.insWord (s.voice c).curIns.toNat
        (4 + maxInstrumentLength s.build + if lenE c ≤ pos c then loopE c else pos c)
      let runs := fun c => (s.voice c).curIns ≠ 0 ∧ 0 < lenE c
      let cutoff := fun (k c : Nat) =>
        let value := ((row c).extractLsb' 0 5).toNat
        if row c &&& 0x0060 = 0x0000 then value else if row c &&& 0x0060 = 0x0020 then min 31 (k + value)
        else if row c &&& 0x0060 = 0x0040 then k - value else k
      t.fCutoff.toNat =
          (List.range (channelCount s.build)).foldl (fun k c => if runs c then cutoff k c else k) s.fCutoff.toNat
        ∧ ((∀ c, c < channelCount s.build → ¬ runs c) → t.fRes = s.fRes ∧ t.fType = s.fType ∧ t.fRoute = s.fRoute)
        ∧ ∀ c, c < channelCount s.build → runs c → (∀ d, c < d → d < channelCount s.build → ¬ runs d) →
            t.fRes = (row c).extractLsb' 8 4 ∧ t.fType = (row c).extractLsb' 12 3
              ∧ ∀ d, t.fRoute.getLsbD d =
                  (decide (d < channelCount s.build) && (s.insWord (s.voice c).curIns.toNat 2).getLsbD d))

/-- R151 to R153: phases with hard sync, and the noise registers. -/
def Obligations.TickAdvancesPhaseSyncAndNoise : Prop :=
  ∀ s : State, s.run = true → s.voices.length = channelCount s.build →
    ∃ t, exec .tick s = .next t ∧ ∀ c, c < channelCount s.build →
      let sum := fun d => (s.voice d).phase.toNat + (t.voice d).freq.toNat
      let old := s.voice c
      let new := t.voice c
      new.phase.toNat =
          (if new.flags.getLsbD 6 = true ∧ 2 ^ 24 ≤ sum (neighbour s.build c) then 0 else sum c % 2 ^ 24)
        ∧ new.lfsr =
          (if old.phase.getLsbD 19 = false ∧ new.phase.getLsbD 19 = true then
            (old.lfsr <<< 1) ||| (BitVec.ofBool (old.lfsr.getLsbD 22 ^^ old.lfsr.getLsbD 17)).zeroExtend 23
          else old.lfsr)
        ∧ (old.lfsr ≠ 0 → new.lfsr ≠ 0)

/-- R161 to R168: the envelope's gate test and stage step in one TICK. -/
def Obligations.TickStepsTheEnvelope : Prop :=
  ∀ s : State, s.run = true → s.voices.length = channelCount s.build →
    ∃ t, exec .tick s = .next t ∧ ∀ c, c < channelCount s.build →
      let v := s.voice c
      let w : Word16 := if v.curIns = 0 then 0 else s.insWord v.curIns.toNat 0
      let attack := attackRate s.build (w.extractLsb' 12 4)
      let decay := decayRate s.build (w.extractLsb' 8 4)
      let target := 17 * (w.extractLsb' 4 4).toNat * 2 ^ 16
      let release := releaseRate s.build (w.extractLsb' 0 4)
      let gate := v.noteGate = true ∧ (t.voice c).flags.getLsbD 0 = true
      let stage : Stage :=
        if gate ∧ (v.envStage = .idle ∨ v.envStage = .release) then .attack
        else if ¬ gate ∧ (v.envStage = .attack ∨ v.envStage = .decay ∨ v.envStage = .sustain) then .release
        else v.envStage
      let acc := v.envAcc.toNat
      let decayed := if target < acc then max target (acc - decay) else acc
      ((t.voice c).envStage, (t.voice c).envAcc.toNat) =
        match stage with
        | .attack => if 0xFFFFFF ≤ acc + attack then (.decay, 0xFFFFFF) else (.attack, acc + attack)
        | .decay => (if decayed ≤ target then .sustain else .decay, decayed)
        | .sustain => (.sustain, acc)
        | .release => (if acc - release = 0 then .idle else .release, acc - release)
        | .idle => (.idle, acc)

/-- R154 to R160: the shapes, their combination, ring modulation and the signed waveform. -/
def Obligations.WaveformsCombineByAndAndRing : Prop :=
  ∀ (s : State) (c : Nat),
    let shape := fun (v : Voice) =>
      let ph := v.phase.toNat
      let saw := ph / 2 ^ 12
      let tri := if ph < 2 ^ 23 then ph / 2 ^ 11 % 2 ^ 12 else 0xFFF - ph / 2 ^ 11 % 2 ^ 12
      let pulse := if ph / 2 ^ 19 < v.pw.toNat then 0xFFF else 0
      let noise := v.lfsr.toNat / 2 ^ 11
      if v.flags.getLsbD 1 || v.flags.getLsbD 2 || v.flags.getLsbD 3 || v.flags.getLsbD 4 then
        (if v.flags.getLsbD 1 then tri else 0xFFF) &&& (if v.flags.getLsbD 2 then saw else 0xFFF)
          &&& (if v.flags.getLsbD 3 then pulse else 0xFFF) &&& (if v.flags.getLsbD 4 then noise else 0xFFF)
      else 0x800
    (ringWave s c).toNat =
        (if (s.voice c).flags.getLsbD 5 then shape (s.voice c) ^^^ shape (s.voice (neighbour s.build c))
          else shape (s.voice c))
      ∧ signedWave (ringWave s c) = ((ringWave s c).toNat : Int) - 2048

/-- R270 to R273, R280 to R282: routing, filter, mix and output of a TICK, all over the registers the TICK leaves. -/
def Obligations.TickMixesTheAudibleVoices : Prop :=
  ∀ s : State, s.run = true → s.voices.length = channelCount s.build →
    ∃ t, exec .tick s = .next t ∧
      (let out := fun c => voiceOut (ringWave t c) (t.voice c)
      let sumOf := fun (routed : Bool) => ((List.range (channelCount s.build)).map fun c =>
        if (t.voice c).mute = false ∧ t.fRoute.getLsbD c = routed then out c else 0).sum
      let r := filterStepFn s.build s.fState (sumOf true) t.fCutoff t.fRes t.fType
      t.fState = r.1
        ∧ t.sampleOut.toInt =
            max (-32768) (min 32767 ((sumOf false + r.2) / ((2 ^ headroomShift s.build : Nat) : Int))))

/-- R81, R290, R336: what a TICK never writes. -/
def Obligations.TickLeavesCommandsAndMemoryAlone : Prop :=
  ∀ s : State, s.run = true → s.voices.length = channelCount s.build →
    ∃ t, exec .tick s = .next t ∧ SameMemory s t ∧ t.build = s.build ∧ t.run = s.run ∧ t.pending = s.pending
      ∧ t.transport = s.transport ∧ t.voices.length = s.voices.length
      ∧ ∀ c, c < channelCount s.build →
          (t.voice c).note = (s.voice c).note ∧ (t.voice c).curIns = (s.voice c).curIns
            ∧ (t.voice c).curFx = (s.voice c).curFx ∧ (t.voice c).noteGate = (s.voice c).noteGate
            ∧ (t.voice c).mute = (s.voice c).mute

/-! The voice's output and the mixer's bounds. -/

/-- R169, R170: the voice output is the floor of a sixteenth of waveform times level, and its bounds. -/
def Obligations.VoiceOutputIsBounded : Prop :=
  ∀ (wv : BitVec 12) (v : Voice),
    let product := ((wv.toNat : Int) - 2048) * ((v.envAcc.toNat / 2 ^ 16 : Nat) : Int)
    16 * voiceOut wv v ≤ product ∧ product < 16 * (voiceOut wv v + 1)
      ∧ -32640 ≤ voiceOut wv v ∧ voiceOut wv v ≤ 32624

/-- R281: HEADROOM_SHIFT is the least shift that makes room for all channels, and then unfiltered voices never clip. -/
def Obligations.HeadroomKeepsUnfilteredVoicesFromClipping : Prop :=
  ∀ b : Build,
    channelCount b ≤ 2 ^ headroomShift b ∧ (∀ k, channelCount b ≤ 2 ^ k → headroomShift b ≤ k)
      ∧ (∀ mix, headroom b mix = max (-32768) (min 32767 (mix / ((2 ^ headroomShift b : Nat) : Int))))
      ∧ ∀ out : Nat → Int, (∀ c, -32640 ≤ out c ∧ out c ≤ 32640) →
          headroom b (sumBelow out (channelCount b)) = asr (sumBelow out (channelCount b)) (headroomShift b)

/-- R270, R274, R293: in a TICK the filter's input and the direct sum are within 32640 times CHANNEL_COUNT; with no
channel routed and the filter in its initial state, the filter stays there and the sample is the exact scaled sum of the
audible voices, within 32640. -/
def Obligations.UnroutedTickIsTheExactSum : Prop :=
  ∀ s : State, s.run = true → s.voices.length = channelCount s.build →
    ∃ t, exec .tick s = .next t ∧
      (let sumOf := fun (routed : Bool) => sumBelow (fun c =>
        if (t.voice c).mute = false ∧ t.fRoute.getLsbD c = routed then voiceOut (ringWave t c) (t.voice c) else 0)
        (channelCount s.build)
      (∀ routed, -(32640 * (channelCount s.build : Int)) ≤ sumOf routed
          ∧ sumOf routed ≤ 32640 * (channelCount s.build : Int))
        ∧ (s.fState = filterInit s.build → t.fRoute = 0 →
          t.fState = filterInit s.build ∧ sumOf true = 0
            ∧ t.sampleOut.toInt = asr (sumOf false) (headroomShift s.build)
            ∧ -32640 ≤ t.sampleOut.toInt ∧ t.sampleOut.toInt ≤ 32640))

/-- R125, R274: after SILENCE a TICK emits 0, in every build and whatever was before. -/
def Obligations.SilencedMachineEmitsZero : Prop :=
  ∀ s : State, ∃ u t, exec .silence s = .next u ∧ exec .tick u = .next t ∧ t.sampleOut = 0

/-! Whole-machine rules. -/

/-- R330: no step of any run answers with a fault or a refusal. -/
def Obligations.NoRunEverStops : Prop :=
  ∀ s : State, NeverStops s

/-- R81: program memory is written by PMWRITE alone; every other instruction, and hardware reset, leaves every byte of
it. -/
def Obligations.OnlyPmwriteWritesProgramMemory : Prop :=
  (∀ (i : Instr) (s : State), (∀ space addr data, i ≠ .pmwrite space addr data) →
      ∃ t, exec i s = .next t ∧ SameMemory s t)
    ∧ ∀ s : State, ∃ t, Presented .hardwareReset s t ∧ SameMemory s t

/-- R126, R374: two states that differ by mutes alone (and so by filter memory and output) stay so under every
instruction. -/
def Obligations.MutesReachOnlyFilterMemoryAndOutput : Prop :=
  ∀ (i : Instr) (s s' : State), SameButMute s s' →
    ∃ t t', exec i s = .next t ∧ exec i s' = .next t' ∧ SameButMute t t'

/-- R23, R30, R33, R34, R172: the state invariant, kept by every step from every state that has it. -/
def Obligations.EveryStepKeepsTheStateInvariant : Prop :=
  ∀ s t : State, StateInv s → step s = .next t → StateInv t

/-- R360: the invariant holds after reset, for every build, every contents of program memory and every Song. -/
def Obligations.ResetHasTheStateInvariant : Prop :=
  StateInv State.reset
    ∧ ∀ (b : Build) (imem fmem : Memory) (song : Song), imem.wf = true → Memory.below (2 * imemWords b) imem = true →
        fmem.wf = true → Memory.below (2 * fmemWords b) fmem = true → SongInv song →
          StateInv (State.resetOf b imem fmem song)

/-- R40, R300, R361: hardware reset leaves program memory and the Song, and every register has its reset value, in every
build and whatever the launch's memory and Song are. That one event resets the transport together with the block and
empties the buffer is the model's choice (log entry 11, DEDUCED: the spec does not join the two). R313, R320, U9: a launch
refuses exactly the degenerate Songs; that `State.reset` is a launch rests on the Song it starts with (log entry 8). -/
def Obligations.ResetGivesTheResetValues : Prop :=
  (∀ s : State, Presented .hardwareReset s (State.resetOf s.build s.imem s.fmem s.transport.song))
  ∧ (∀ (b : Build) (imem fmem : Memory) (song : Song),
      let ok := song.tempo ≠ 0 ∧ 1 ≤ song.tableLength.toNat ∧ song.tableLength.toNat ≤ maxSongLength b
        ∧ ∀ k, k < maxSongLength b → ∀ c, c < channelCount b →
          ((State.resetOf b imem fmem song).tableEntry k c).toNat ≤ trackCount b
      (ok → launch b imem fmem song = .next (State.resetOf b imem fmem song))
        ∧ (¬ ok → launch b imem fmem song = .refused .degenerateSong))
  ∧ launch .reference [] [] songReset = .next State.reset
  ∧ ∀ (b : Build) (imem fmem : Memory) (song : Song),
    let s := State.resetOf b imem fmem song
    s.voices.length = channelCount b
      ∧ (∀ c, c < channelCount b → s.voice c =
          { note := 0, curIns := 0, curFx := 0, insPos := 0, fltPos := 0, fxPos := 0, noteGate := false, flags := 0,
            pw := 0, freq := 0, phase := 0, lfsr := 0x7FFFFF, envStage := .idle, envAcc := 0, mute := false })
      ∧ s.fCutoff = 0 ∧ s.fRes = 0 ∧ s.fType = 0 ∧ s.fRoute = 0 ∧ s.fState = filterInit b
      ∧ s.sampleOut = 0 ∧ s.run = false ∧ s.imem = imem ∧ s.fmem = fmem
      ∧ s.transport.tstate = .stopped ∧ s.transport.block = 0 ∧ s.transport.row = 0 ∧ s.transport.frame = 0
      ∧ s.transport.blockLoop = false ∧ s.transport.song = song

/-! Programs and tables. -/

/-- R194: a well-formed program of length `n` and loop `l`, started at cursor 0, executes rows 0, …, n−1, l, …, n−1,
l, … at successive executions. -/
def Obligations.ProgramWrapsFromItsLengthToItsLoop : Prop :=
  ∀ (header : Word16) (max : Nat) (cursor : Nat → BitVec 8), HeaderOk header max → cursor 0 = 0 →
    (∀ k, ∀ p next, fetchPlan header max (cursor k) = some (p, next) → cursor (k + 1) = next) →
      let n := headerLength header
      let l := headerLoop header
      ∀ k, fetchPlan header max (cursor k) =
        some (if k < n then k else l + (k - n) % (n - l), cursor (k + 1))

/-- R7, R8, R161: every rate is in 1..2^24−1, each table is monotonic in one direction, and the sustain target is
`17 · S · 2^16`, from 0 at S = 0 to 255 · 2^16, the full level, at S = 15. -/
def Obligations.RateTablesAreBoundedAndMonotonic : Prop :=
  (∀ (b : Build) (rate : Build → BitVec 4 → Nat), rate ∈ [attackRate, decayRate, releaseRate] →
    (∀ n, 1 ≤ rate b n ∧ rate b n ≤ 2 ^ 24 - 1)
      ∧ ((∀ m n : BitVec 4, m.toNat ≤ n.toNat → rate b m ≤ rate b n)
        ∨ (∀ m n : BitVec 4, m.toNat ≤ n.toNat → rate b n ≤ rate b m)))
  ∧ (∀ n : BitVec 4, sustainTarget n = 17 * n.toNat * 2 ^ 16)
  ∧ sustainTarget 0 = 0 ∧ sustainTarget 15 = 255 * 2 ^ 16

/-- R260: FREQ is non-decreasing over its domain FINE..96·FINE, in every build. -/
def Obligations.FrequencyRomIsNonDecreasing : Prop :=
  ∀ (b : Build) (p q : Nat), fine b ≤ p → p ≤ q → q ≤ 96 * fine b → (freqRom b p).toNat ≤ (freqRom b q).toNat

/-- R8, R163 to R168: every envelope stage ends. With the gate low a sounding voice is IDLE at level 0 within 2^24 ticks;
with the gate high a voice reaches SUSTAIN within 2^25. -/
def Obligations.EveryEnvelopeStageEnds : Prop :=
  ∀ (b : Build) (adsr : Word16) (v : Voice), (v.envStage = .idle → v.envAcc = 0) →
    (effectiveGate v = false →
        ∃ k, k ≤ 2 ^ 24 ∧ ((envelope b adsr)^[k] v).envStage = .idle ∧ ((envelope b adsr)^[k] v).envAcc = 0)
      ∧ (effectiveGate v = true → ∃ k, k ≤ 2 ^ 25 ∧ ((envelope b adsr)^[k] v).envStage = .sustain)

/-! The host agent. -/

/-- R292, R309: filling a buffer in two calls gives the same samples and the same state as filling it in one. -/
def Obligations.FillBufferIsChunkIndependent : Prop :=
  ∀ (s : State) (a b : Nat), ∃ t,
    Drains (s.withPending [.fillBuffer a, .fillBuffer b]) t ∧ Drains (s.withPending [.fillBuffer (a + b)]) t
      ∧ ∃ samples, t.transport.dest = s.transport.dest ++ samples ∧ samples.length = a + b

/-- R127, R291, R335: RUN 0, any number of TICKs, RUN 1 leaves every register where it stood but the output. -/
def Obligations.PauseResumesWhereItStood : Prop :=
  ∀ (s : State) (k : Nat),
    Drains (s.withPending
        (.command (runCommandWord false) :: (List.replicate (k + 1) .tick ++ [.command (runCommandWord true)])))
      { s with run := true, sampleOut := 0, pending := [] }

/-- R301, R302: play and pause, with the commands they issue; R322: `is_playing()`. -/
def Obligations.PlayAndPauseDriveTheRunRegister : Prop :=
  ∀ s : State,
    let playing : State := { s with run := true, transport := { s.transport with tstate := .playing } }
    let paused : State := { s with run := false, transport := { s.transport with tstate := .paused } }
    (s.transport.tstate ≠ .playing → Presented .play s playing)
      ∧ (s.transport.tstate = .playing → Presented .play s s)
      ∧ (s.transport.tstate = .playing → Presented .pause s paused)
      ∧ (s.transport.tstate ≠ .playing → Presented .pause s s)
      ∧ isPlaying playing = true ∧ isPlaying paused = false

/-- R303: stop, from any state: position to the start, then RUN 0 and SILENCE; R322: `is_playing()`. -/
def Obligations.StopRewindsAndSilences : Prop :=
  ∀ s : State, ∃ t,
    exec .silence { s with
      run := false
      transport := { s.transport with tstate := .stopped, block := 0, row := 0, frame := 0 } } = .next t
      ∧ Presented .stop s t ∧ isPlaying t = false

/-- R304, R305: a seek clamps to the last valid block, and `block_loop` writes its bit. R320, R321: the editor's writes to
the Song, each read back by the field it names, with every other field of the Song and all else as before. R322: the
queries. None of these issues a command. -/
def Obligations.SeekClampsToTheLastBlock : Prop :=
  ∀ s : State,
    let tr := s.transport
    let song := tr.song
    let withSong := fun (g : Song) => { s with transport := { tr with song := g } }
    (∀ n, 1 ≤ song.tableLength.toNat →
        let t : State := { s with
          transport := { tr with block := min n (song.tableLength.toNat - 1), row := 0, frame := 0 } }
        Presented (.seek n) s t ∧ queryBlock t = min n (song.tableLength.toNat - 1) ∧ queryRow t = 0)
      ∧ (∀ b,
        let t : State := { s with transport := { tr with blockLoop := b } }
        Presented (.setBlockLoop b) s t ∧ queryBlockLoop t = b)
      ∧ (∀ v, Presented (.setTempo v) s (withSong { song with tempo := v }))
      ∧ (∀ v, Presented (.setSwing v) s (withSong { song with swing := v }))
      ∧ (∀ v, Presented (.setTableLength v) s (withSong { song with tableLength := v }))
      ∧ (SongInv song → ∀ b c x, b < maxSongLength s.build → c < channelCount s.build →
        ∃ table, Presented (.setTable b c x) s (withSong { song with table := table })
          ∧ (withSong { song with table := table }).tableEntry b c = x
          ∧ ∀ b' c', c' < channelCount s.build → (b' ≠ b ∨ c' ≠ c) →
              (withSong { song with table := table }).tableEntry b' c' = s.tableEntry b' c')
      ∧ (SongInv song → ∀ t r note ins fx, 1 ≤ t → t ≤ trackCount s.build → r < trackLength s.build →
        ∃ tracks, Presented (.setTrackRow t r note ins fx) s (withSong { song with tracks := tracks })
          ∧ (withSong { song with tracks := tracks }).trackByte t r 0 = note
          ∧ (withSong { song with tracks := tracks }).trackByte t r 1 = ins
          ∧ (withSong { song with tracks := tracks }).trackByte t r 2 = fx
          ∧ ∀ t' r' k, r' < trackLength s.build → k < 3 → (t' ≠ t ∨ r' ≠ r) →
              (withSong { song with tracks := tracks }).trackByte t' r' k = s.trackByte t' r' k)

/-- R309 to R311: one pass of `fill_buffer` while PLAYING issues, on a row's first sample, the ROW command of every channel
whose block entry names a track, channels ascending, and then the TICK, the store and the frame's advance. The unfolding of
a pass into those waiting events is the model's choice (log entry 10, DESIGN CHOICE). Inside a row a pass stores the TICK's
sample and advances the frame; while not PLAYING, with `run` = 0, each pass stores 0 and nothing else moves (R291; with
`run` = 1 there, see log entry 16). -/
def Obligations.SampleDispatchesTheRowBeforeTheTick : Prop :=
  (∀ (s : State) (rest : List Event), s.transport.tstate = .playing →
    ∃ t, step (s.withPending (.sample :: rest)) = .next t
      ∧ t.pending =
        (if s.transport.frame = 0 then
          (List.range (channelCount s.build)).flatMap fun c =>
            let track := (s.tableEntry s.transport.block c).toNat
            if 1 ≤ track ∧ track ≤ trackCount s.build then
              [Event.command (rowCommandWord (BitVec.ofNat 4 c) (s.trackByte track s.transport.row 0)
                (s.trackByte track s.transport.row 1) (s.trackByte track s.transport.row 2))]
            else []
        else []) ++ [.tick, .storeSample, .advanceFrame] ++ rest
      ∧ t = { s with pending := t.pending })
  ∧ (∀ s : State, s.transport.tstate = .playing → s.transport.frame ≠ 0 →
      s.transport.frame + 1 < rowLen s.build s.transport.song s.transport.row →
        ∃ t, exec .tick s = .next t ∧ Presented (.fillBuffer 1) s { t with
          transport := { s.transport with frame := s.transport.frame + 1, dest := s.transport.dest ++ [t.sampleOut] } })
  ∧ ∀ (s : State) (n : Nat), s.transport.tstate ≠ .playing → s.run = false →
      Presented (.fillBuffer (n + 1)) s { s with
        sampleOut := 0
        transport := { s.transport with dest := s.transport.dest ++ List.replicate (n + 1) 0 } }

/-- R309, R312: the frame's advance and the end of row, block and song, as one step of the inner event `advanceFrame`, with
the stop's two commands left waiting: that unfolding is the model's choice (log entry 10, DESIGN CHOICE). -/
def Obligations.RowEndAdvancesBlockOrStops : Prop :=
  ∀ (s : State) (rest : List Event),
    let tr := s.transport
    let full := rowLen s.build tr.song tr.row ≤ tr.frame + 1
    let lastRow := trackLength s.build ≤ tr.row + 1
    let lastBlock := tr.song.tableLength.toNat ≤ tr.block + 1
    let after := fun (x : Transport) (es : List Event) =>
      step (s.withPending (.advanceFrame :: rest)) = .next { s with transport := x, pending := es ++ rest }
    (¬ full → after { tr with frame := tr.frame + 1 } [])
      ∧ (full → ¬ lastRow → after { tr with frame := 0, row := tr.row + 1 } [])
      ∧ (full → lastRow → ¬ lastBlock → after { tr with frame := 0, row := 0, block := tr.block + 1 } [])
      ∧ (full → lastRow → lastBlock → tr.blockLoop = true → after { tr with frame := 0, row := 0, block := 0 } [])
      ∧ (full → lastRow → lastBlock → tr.blockLoop = false →
          after { tr with tstate := .stopped, frame := 0, row := 0, block := 0 }
            [.command (runCommandWord false), .command silenceCommandWord])

/-- R307, R308: with `tempo ≥ 1` the rows of a block last `TRACK_LENGTH · tempo + (TRACK_LENGTH/2) · swing` samples in
all, whatever SWING_PHASE is; and from the start of a block, PLAYING, that many samples and no fewer bring the transport to
the next block, or past the last one to block 0, there PLAYING if `block_loop` is set and else STOPPED (R312). -/
def Obligations.BlockDurationFormula : Prop :=
  (∀ (b : Build) (song : Song), 1 ≤ song.tempo.toNat →
    ((List.range (trackLength b)).map fun r => max 1 (rowLen b song r)).sum =
      trackLength b * song.tempo.toNat + trackLength b / 2 * song.swing.toNat)
  ∧ ∀ s : State,
    let tr := s.transport
    let n := trackLength s.build * tr.song.tempo.toNat + trackLength s.build / 2 * tr.song.swing.toNat
    let more := tr.block + 1 < tr.song.tableLength.toNat
    1 ≤ tr.song.tempo.toNat → tr.tstate = .playing → tr.row = 0 → tr.frame = 0 →
      (∀ k, k < n → ∃ t, Presented (.fillBuffer k) s t
          ∧ t.transport.tstate = .playing ∧ t.transport.block = tr.block)
        ∧ ∃ t samples, Presented (.fillBuffer n) s t ∧ samples.length = n
          ∧ t.transport = { tr with
              tstate := if more ∨ tr.blockLoop = true then .playing else .stopped
              block := if more then tr.block + 1 else 0
              row := 0
              frame := 0
              dest := tr.dest ++ samples }
end

