-- ==== Sys2Proof/Laws/Decode.lean ====
section
/-! SUPPORT. The byte strings of words: their length, and that reading back a written number gives the number. -/

namespace Sys2Proof

/-- A number written in `n` bytes has `n` of them. -/
@[simp] theorem natToBytes_length (n w : Nat) : (natToBytes n w).length = n := by
  induction n generalizing w with
  | zero => rfl
  | succ n ih => simp [natToBytes, ih]

/-- A number that fits in `n` bytes is read back from them (R70). -/
theorem bytesToNat_natToBytes (n w : Nat) (h : w < 256 ^ n) : bytesToNat (natToBytes n w) = w := by
  induction n generalizing w with
  | zero => simp only [Nat.pow_zero, Nat.lt_one_iff] at h; simp [natToBytes, bytesToNat, h]
  | succ n ih =>
    rw [natToBytes, bytesToNat, ih _ (by rw [Nat.pow_succ] at h; omega)]
    simp only [BitVec.toNat_ofNat]
    omega

/-- The word of an instruction has the bits of its source's length (R90). -/
theorem encodeNat_lt (i : Instr) : encodeNat i < 256 ^ i.source.byteLength := by
  cases i <;> simp only [encodeNat, Instr.source, Source.byteLength]
  all_goals first
    | exact BitVec.isLt _
    | decide

/-- The bytes of an instruction are as many as its source has (R90). -/
theorem encode_length (i : Instr) : (encode i).length = i.source.byteLength := natToBytes_length _ _

/-- Bytes of the source's length decode to the instruction of their number (R104). -/
theorem decode_of_length {src : Source} {bytes : List Byte} (h : bytes.length = src.byteLength) :
    decode src bytes = .ok (decodeNat src (bytesToNat bytes)) := by
  simp [decode, h]

/-- Decoding what the encoder wrote is decoding its number. -/
theorem decode_encode_eq (i : Instr) : decode i.source (encode i) = .ok (decodeNat i.source (encodeNat i)) := by
  rw [decode_of_length (encode_length i), encode, bytesToNat_natToBytes _ _ (encodeNat_lt i)]

end Sys2Proof
end

