-- ==== Sys2Proof/Laws/State.lean ====
section
/-! SUPPORT. One lemma per field per update of the state, each true by definition, so that no later proof unfolds a record
update; and what the update of one channel's registers does to a read of them. -/

namespace Sys2Proof.Machine

@[simp] theorem State.modVoice_build (s : State) (c : Nat) (f : Voice → Voice) : (s.modVoice c f).build = s.build := rfl
@[simp] theorem State.modVoice_voices (s : State) (c : Nat) (f : Voice → Voice) : (s.modVoice c f).voices = s.voices.modify c f := rfl
@[simp] theorem State.modVoice_fCutoff (s : State) (c : Nat) (f : Voice → Voice) : (s.modVoice c f).fCutoff = s.fCutoff := rfl
@[simp] theorem State.modVoice_fRes (s : State) (c : Nat) (f : Voice → Voice) : (s.modVoice c f).fRes = s.fRes := rfl
@[simp] theorem State.modVoice_fType (s : State) (c : Nat) (f : Voice → Voice) : (s.modVoice c f).fType = s.fType := rfl
@[simp] theorem State.modVoice_fRoute (s : State) (c : Nat) (f : Voice → Voice) : (s.modVoice c f).fRoute = s.fRoute := rfl
@[simp] theorem State.modVoice_fState (s : State) (c : Nat) (f : Voice → Voice) : (s.modVoice c f).fState = s.fState := rfl
@[simp] theorem State.modVoice_run (s : State) (c : Nat) (f : Voice → Voice) : (s.modVoice c f).run = s.run := rfl
@[simp] theorem State.modVoice_sampleOut (s : State) (c : Nat) (f : Voice → Voice) : (s.modVoice c f).sampleOut = s.sampleOut := rfl
@[simp] theorem State.modVoice_imem (s : State) (c : Nat) (f : Voice → Voice) : (s.modVoice c f).imem = s.imem := rfl
@[simp] theorem State.modVoice_fmem (s : State) (c : Nat) (f : Voice → Voice) : (s.modVoice c f).fmem = s.fmem := rfl
@[simp] theorem State.modVoice_pending (s : State) (c : Nat) (f : Voice → Voice) : (s.modVoice c f).pending = s.pending := rfl
@[simp] theorem State.modVoice_transport (s : State) (c : Nat) (f : Voice → Voice) : (s.modVoice c f).transport = s.transport := rfl
@[simp] theorem State.modVoice_active (s : State) (c : Nat) (f : Voice → Voice) : (s.modVoice c f).active = s.active := rfl
@[simp] theorem State.modVoice_pfRaw (s : State) (c : Nat) (f : Voice → Voice) : (s.modVoice c f).pfRaw = s.pfRaw := rfl

@[simp] theorem State.withVoices_build (s : State) (vs : List Voice) : (s.withVoices vs).build = s.build := rfl
@[simp] theorem State.withVoices_voices (s : State) (vs : List Voice) : (s.withVoices vs).voices = vs := rfl
@[simp] theorem State.withVoices_fCutoff (s : State) (vs : List Voice) : (s.withVoices vs).fCutoff = s.fCutoff := rfl
@[simp] theorem State.withVoices_fRes (s : State) (vs : List Voice) : (s.withVoices vs).fRes = s.fRes := rfl
@[simp] theorem State.withVoices_fType (s : State) (vs : List Voice) : (s.withVoices vs).fType = s.fType := rfl
@[simp] theorem State.withVoices_fRoute (s : State) (vs : List Voice) : (s.withVoices vs).fRoute = s.fRoute := rfl
@[simp] theorem State.withVoices_fState (s : State) (vs : List Voice) : (s.withVoices vs).fState = s.fState := rfl
@[simp] theorem State.withVoices_run (s : State) (vs : List Voice) : (s.withVoices vs).run = s.run := rfl
@[simp] theorem State.withVoices_sampleOut (s : State) (vs : List Voice) : (s.withVoices vs).sampleOut = s.sampleOut := rfl
@[simp] theorem State.withVoices_imem (s : State) (vs : List Voice) : (s.withVoices vs).imem = s.imem := rfl
@[simp] theorem State.withVoices_fmem (s : State) (vs : List Voice) : (s.withVoices vs).fmem = s.fmem := rfl
@[simp] theorem State.withVoices_pending (s : State) (vs : List Voice) : (s.withVoices vs).pending = s.pending := rfl
@[simp] theorem State.withVoices_transport (s : State) (vs : List Voice) : (s.withVoices vs).transport = s.transport := rfl
@[simp] theorem State.withVoices_active (s : State) (vs : List Voice) : (s.withVoices vs).active = s.active := rfl
@[simp] theorem State.withVoices_pfRaw (s : State) (vs : List Voice) : (s.withVoices vs).pfRaw = s.pfRaw := rfl

@[simp] theorem State.withFilter_build (s : State) (k : BitVec 5) (r : BitVec 4) (ty : BitVec 3) (m : BitVec 15) : (s.withFilter k r ty m).build = s.build := rfl
@[simp] theorem State.withFilter_voices (s : State) (k : BitVec 5) (r : BitVec 4) (ty : BitVec 3) (m : BitVec 15) : (s.withFilter k r ty m).voices = s.voices := rfl
@[simp] theorem State.withFilter_fCutoff (s : State) (k : BitVec 5) (r : BitVec 4) (ty : BitVec 3) (m : BitVec 15) : (s.withFilter k r ty m).fCutoff = k := rfl
@[simp] theorem State.withFilter_fRes (s : State) (k : BitVec 5) (r : BitVec 4) (ty : BitVec 3) (m : BitVec 15) : (s.withFilter k r ty m).fRes = r := rfl
@[simp] theorem State.withFilter_fType (s : State) (k : BitVec 5) (r : BitVec 4) (ty : BitVec 3) (m : BitVec 15) : (s.withFilter k r ty m).fType = ty := rfl
@[simp] theorem State.withFilter_fRoute (s : State) (k : BitVec 5) (r : BitVec 4) (ty : BitVec 3) (m : BitVec 15) : (s.withFilter k r ty m).fRoute = m := rfl
@[simp] theorem State.withFilter_fState (s : State) (k : BitVec 5) (r : BitVec 4) (ty : BitVec 3) (m : BitVec 15) : (s.withFilter k r ty m).fState = s.fState := rfl
@[simp] theorem State.withFilter_run (s : State) (k : BitVec 5) (r : BitVec 4) (ty : BitVec 3) (m : BitVec 15) : (s.withFilter k r ty m).run = s.run := rfl
@[simp] theorem State.withFilter_sampleOut (s : State) (k : BitVec 5) (r : BitVec 4) (ty : BitVec 3) (m : BitVec 15) : (s.withFilter k r ty m).sampleOut = s.sampleOut := rfl
@[simp] theorem State.withFilter_imem (s : State) (k : BitVec 5) (r : BitVec 4) (ty : BitVec 3) (m : BitVec 15) : (s.withFilter k r ty m).imem = s.imem := rfl
@[simp] theorem State.withFilter_fmem (s : State) (k : BitVec 5) (r : BitVec 4) (ty : BitVec 3) (m : BitVec 15) : (s.withFilter k r ty m).fmem = s.fmem := rfl
@[simp] theorem State.withFilter_pending (s : State) (k : BitVec 5) (r : BitVec 4) (ty : BitVec 3) (m : BitVec 15) : (s.withFilter k r ty m).pending = s.pending := rfl
@[simp] theorem State.withFilter_transport (s : State) (k : BitVec 5) (r : BitVec 4) (ty : BitVec 3) (m : BitVec 15) : (s.withFilter k r ty m).transport = s.transport := rfl
@[simp] theorem State.withFilter_active (s : State) (k : BitVec 5) (r : BitVec 4) (ty : BitVec 3) (m : BitVec 15) : (s.withFilter k r ty m).active = s.active := rfl
@[simp] theorem State.withFilter_pfRaw (s : State) (k : BitVec 5) (r : BitVec 4) (ty : BitVec 3) (m : BitVec 15) : (s.withFilter k r ty m).pfRaw = s.pfRaw := rfl

@[simp] theorem State.withFState_build (s : State) (m : FilterMem) : (s.withFState m).build = s.build := rfl
@[simp] theorem State.withFState_voices (s : State) (m : FilterMem) : (s.withFState m).voices = s.voices := rfl
@[simp] theorem State.withFState_fCutoff (s : State) (m : FilterMem) : (s.withFState m).fCutoff = s.fCutoff := rfl
@[simp] theorem State.withFState_fRes (s : State) (m : FilterMem) : (s.withFState m).fRes = s.fRes := rfl
@[simp] theorem State.withFState_fType (s : State) (m : FilterMem) : (s.withFState m).fType = s.fType := rfl
@[simp] theorem State.withFState_fRoute (s : State) (m : FilterMem) : (s.withFState m).fRoute = s.fRoute := rfl
@[simp] theorem State.withFState_fState (s : State) (m : FilterMem) : (s.withFState m).fState = m := rfl
@[simp] theorem State.withFState_run (s : State) (m : FilterMem) : (s.withFState m).run = s.run := rfl
@[simp] theorem State.withFState_sampleOut (s : State) (m : FilterMem) : (s.withFState m).sampleOut = s.sampleOut := rfl
@[simp] theorem State.withFState_imem (s : State) (m : FilterMem) : (s.withFState m).imem = s.imem := rfl
@[simp] theorem State.withFState_fmem (s : State) (m : FilterMem) : (s.withFState m).fmem = s.fmem := rfl
@[simp] theorem State.withFState_pending (s : State) (m : FilterMem) : (s.withFState m).pending = s.pending := rfl
@[simp] theorem State.withFState_transport (s : State) (m : FilterMem) : (s.withFState m).transport = s.transport := rfl
@[simp] theorem State.withFState_active (s : State) (m : FilterMem) : (s.withFState m).active = s.active := rfl
@[simp] theorem State.withFState_pfRaw (s : State) (m : FilterMem) : (s.withFState m).pfRaw = s.pfRaw := rfl

@[simp] theorem State.withRun_build (s : State) (b : Bool) : (s.withRun b).build = s.build := rfl
@[simp] theorem State.withRun_voices (s : State) (b : Bool) : (s.withRun b).voices = s.voices := rfl
@[simp] theorem State.withRun_fCutoff (s : State) (b : Bool) : (s.withRun b).fCutoff = s.fCutoff := rfl
@[simp] theorem State.withRun_fRes (s : State) (b : Bool) : (s.withRun b).fRes = s.fRes := rfl
@[simp] theorem State.withRun_fType (s : State) (b : Bool) : (s.withRun b).fType = s.fType := rfl
@[simp] theorem State.withRun_fRoute (s : State) (b : Bool) : (s.withRun b).fRoute = s.fRoute := rfl
@[simp] theorem State.withRun_fState (s : State) (b : Bool) : (s.withRun b).fState = s.fState := rfl
@[simp] theorem State.withRun_run (s : State) (b : Bool) : (s.withRun b).run = b := rfl
@[simp] theorem State.withRun_sampleOut (s : State) (b : Bool) : (s.withRun b).sampleOut = s.sampleOut := rfl
@[simp] theorem State.withRun_imem (s : State) (b : Bool) : (s.withRun b).imem = s.imem := rfl
@[simp] theorem State.withRun_fmem (s : State) (b : Bool) : (s.withRun b).fmem = s.fmem := rfl
@[simp] theorem State.withRun_pending (s : State) (b : Bool) : (s.withRun b).pending = s.pending := rfl
@[simp] theorem State.withRun_transport (s : State) (b : Bool) : (s.withRun b).transport = s.transport := rfl
@[simp] theorem State.withRun_active (s : State) (b : Bool) : (s.withRun b).active = s.active := rfl
@[simp] theorem State.withRun_pfRaw (s : State) (b : Bool) : (s.withRun b).pfRaw = s.pfRaw := rfl

@[simp] theorem State.withSampleOut_build (s : State) (v : Word16) : (s.withSampleOut v).build = s.build := rfl
@[simp] theorem State.withSampleOut_voices (s : State) (v : Word16) : (s.withSampleOut v).voices = s.voices := rfl
@[simp] theorem State.withSampleOut_fCutoff (s : State) (v : Word16) : (s.withSampleOut v).fCutoff = s.fCutoff := rfl
@[simp] theorem State.withSampleOut_fRes (s : State) (v : Word16) : (s.withSampleOut v).fRes = s.fRes := rfl
@[simp] theorem State.withSampleOut_fType (s : State) (v : Word16) : (s.withSampleOut v).fType = s.fType := rfl
@[simp] theorem State.withSampleOut_fRoute (s : State) (v : Word16) : (s.withSampleOut v).fRoute = s.fRoute := rfl
@[simp] theorem State.withSampleOut_fState (s : State) (v : Word16) : (s.withSampleOut v).fState = s.fState := rfl
@[simp] theorem State.withSampleOut_run (s : State) (v : Word16) : (s.withSampleOut v).run = s.run := rfl
@[simp] theorem State.withSampleOut_sampleOut (s : State) (v : Word16) : (s.withSampleOut v).sampleOut = v := rfl
@[simp] theorem State.withSampleOut_imem (s : State) (v : Word16) : (s.withSampleOut v).imem = s.imem := rfl
@[simp] theorem State.withSampleOut_fmem (s : State) (v : Word16) : (s.withSampleOut v).fmem = s.fmem := rfl
@[simp] theorem State.withSampleOut_pending (s : State) (v : Word16) : (s.withSampleOut v).pending = s.pending := rfl
@[simp] theorem State.withSampleOut_transport (s : State) (v : Word16) : (s.withSampleOut v).transport = s.transport := rfl
@[simp] theorem State.withSampleOut_active (s : State) (v : Word16) : (s.withSampleOut v).active = s.active := rfl
@[simp] theorem State.withSampleOut_pfRaw (s : State) (v : Word16) : (s.withSampleOut v).pfRaw = s.pfRaw := rfl

@[simp] theorem State.withImem_build (s : State) (m : Memory) : (s.withImem m).build = s.build := rfl
@[simp] theorem State.withImem_voices (s : State) (m : Memory) : (s.withImem m).voices = s.voices := rfl
@[simp] theorem State.withImem_fCutoff (s : State) (m : Memory) : (s.withImem m).fCutoff = s.fCutoff := rfl
@[simp] theorem State.withImem_fRes (s : State) (m : Memory) : (s.withImem m).fRes = s.fRes := rfl
@[simp] theorem State.withImem_fType (s : State) (m : Memory) : (s.withImem m).fType = s.fType := rfl
@[simp] theorem State.withImem_fRoute (s : State) (m : Memory) : (s.withImem m).fRoute = s.fRoute := rfl
@[simp] theorem State.withImem_fState (s : State) (m : Memory) : (s.withImem m).fState = s.fState := rfl
@[simp] theorem State.withImem_run (s : State) (m : Memory) : (s.withImem m).run = s.run := rfl
@[simp] theorem State.withImem_sampleOut (s : State) (m : Memory) : (s.withImem m).sampleOut = s.sampleOut := rfl
@[simp] theorem State.withImem_imem (s : State) (m : Memory) : (s.withImem m).imem = m := rfl
@[simp] theorem State.withImem_fmem (s : State) (m : Memory) : (s.withImem m).fmem = s.fmem := rfl
@[simp] theorem State.withImem_pending (s : State) (m : Memory) : (s.withImem m).pending = s.pending := rfl
@[simp] theorem State.withImem_transport (s : State) (m : Memory) : (s.withImem m).transport = s.transport := rfl
@[simp] theorem State.withImem_active (s : State) (m : Memory) : (s.withImem m).active = s.active := rfl
@[simp] theorem State.withImem_pfRaw (s : State) (m : Memory) : (s.withImem m).pfRaw = s.pfRaw := rfl

@[simp] theorem State.withFmem_build (s : State) (m : Memory) : (s.withFmem m).build = s.build := rfl
@[simp] theorem State.withFmem_voices (s : State) (m : Memory) : (s.withFmem m).voices = s.voices := rfl
@[simp] theorem State.withFmem_fCutoff (s : State) (m : Memory) : (s.withFmem m).fCutoff = s.fCutoff := rfl
@[simp] theorem State.withFmem_fRes (s : State) (m : Memory) : (s.withFmem m).fRes = s.fRes := rfl
@[simp] theorem State.withFmem_fType (s : State) (m : Memory) : (s.withFmem m).fType = s.fType := rfl
@[simp] theorem State.withFmem_fRoute (s : State) (m : Memory) : (s.withFmem m).fRoute = s.fRoute := rfl
@[simp] theorem State.withFmem_fState (s : State) (m : Memory) : (s.withFmem m).fState = s.fState := rfl
@[simp] theorem State.withFmem_run (s : State) (m : Memory) : (s.withFmem m).run = s.run := rfl
@[simp] theorem State.withFmem_sampleOut (s : State) (m : Memory) : (s.withFmem m).sampleOut = s.sampleOut := rfl
@[simp] theorem State.withFmem_imem (s : State) (m : Memory) : (s.withFmem m).imem = s.imem := rfl
@[simp] theorem State.withFmem_fmem (s : State) (m : Memory) : (s.withFmem m).fmem = m := rfl
@[simp] theorem State.withFmem_pending (s : State) (m : Memory) : (s.withFmem m).pending = s.pending := rfl
@[simp] theorem State.withFmem_transport (s : State) (m : Memory) : (s.withFmem m).transport = s.transport := rfl
@[simp] theorem State.withFmem_active (s : State) (m : Memory) : (s.withFmem m).active = s.active := rfl
@[simp] theorem State.withFmem_pfRaw (s : State) (m : Memory) : (s.withFmem m).pfRaw = s.pfRaw := rfl

@[simp] theorem State.withPending_build (s : State) (es : List Event) : (s.withPending es).build = s.build := rfl
@[simp] theorem State.withPending_voices (s : State) (es : List Event) : (s.withPending es).voices = s.voices := rfl
@[simp] theorem State.withPending_fCutoff (s : State) (es : List Event) : (s.withPending es).fCutoff = s.fCutoff := rfl
@[simp] theorem State.withPending_fRes (s : State) (es : List Event) : (s.withPending es).fRes = s.fRes := rfl
@[simp] theorem State.withPending_fType (s : State) (es : List Event) : (s.withPending es).fType = s.fType := rfl
@[simp] theorem State.withPending_fRoute (s : State) (es : List Event) : (s.withPending es).fRoute = s.fRoute := rfl
@[simp] theorem State.withPending_fState (s : State) (es : List Event) : (s.withPending es).fState = s.fState := rfl
@[simp] theorem State.withPending_run (s : State) (es : List Event) : (s.withPending es).run = s.run := rfl
@[simp] theorem State.withPending_sampleOut (s : State) (es : List Event) : (s.withPending es).sampleOut = s.sampleOut := rfl
@[simp] theorem State.withPending_imem (s : State) (es : List Event) : (s.withPending es).imem = s.imem := rfl
@[simp] theorem State.withPending_fmem (s : State) (es : List Event) : (s.withPending es).fmem = s.fmem := rfl
@[simp] theorem State.withPending_pending (s : State) (es : List Event) : (s.withPending es).pending = es := rfl
@[simp] theorem State.withPending_transport (s : State) (es : List Event) : (s.withPending es).transport = s.transport := rfl
@[simp] theorem State.withPending_active (s : State) (es : List Event) : (s.withPending es).active = s.active := rfl
@[simp] theorem State.withPending_pfRaw (s : State) (es : List Event) : (s.withPending es).pfRaw = s.pfRaw := rfl

@[simp] theorem State.issue_build (s : State) (es : List Event) : (s.issue es).build = s.build := rfl
@[simp] theorem State.issue_voices (s : State) (es : List Event) : (s.issue es).voices = s.voices := rfl
@[simp] theorem State.issue_fCutoff (s : State) (es : List Event) : (s.issue es).fCutoff = s.fCutoff := rfl
@[simp] theorem State.issue_fRes (s : State) (es : List Event) : (s.issue es).fRes = s.fRes := rfl
@[simp] theorem State.issue_fType (s : State) (es : List Event) : (s.issue es).fType = s.fType := rfl
@[simp] theorem State.issue_fRoute (s : State) (es : List Event) : (s.issue es).fRoute = s.fRoute := rfl
@[simp] theorem State.issue_fState (s : State) (es : List Event) : (s.issue es).fState = s.fState := rfl
@[simp] theorem State.issue_run (s : State) (es : List Event) : (s.issue es).run = s.run := rfl
@[simp] theorem State.issue_sampleOut (s : State) (es : List Event) : (s.issue es).sampleOut = s.sampleOut := rfl
@[simp] theorem State.issue_imem (s : State) (es : List Event) : (s.issue es).imem = s.imem := rfl
@[simp] theorem State.issue_fmem (s : State) (es : List Event) : (s.issue es).fmem = s.fmem := rfl
@[simp] theorem State.issue_pending (s : State) (es : List Event) : (s.issue es).pending = es ++ s.pending := rfl
@[simp] theorem State.issue_transport (s : State) (es : List Event) : (s.issue es).transport = s.transport := rfl
@[simp] theorem State.issue_active (s : State) (es : List Event) : (s.issue es).active = s.active := rfl
@[simp] theorem State.issue_pfRaw (s : State) (es : List Event) : (s.issue es).pfRaw = s.pfRaw := rfl

@[simp] theorem State.withTransport_build (s : State) (x : Transport) : (s.withTransport x).build = s.build := rfl
@[simp] theorem State.withTransport_voices (s : State) (x : Transport) : (s.withTransport x).voices = s.voices := rfl
@[simp] theorem State.withTransport_fCutoff (s : State) (x : Transport) : (s.withTransport x).fCutoff = s.fCutoff := rfl
@[simp] theorem State.withTransport_fRes (s : State) (x : Transport) : (s.withTransport x).fRes = s.fRes := rfl
@[simp] theorem State.withTransport_fType (s : State) (x : Transport) : (s.withTransport x).fType = s.fType := rfl
@[simp] theorem State.withTransport_fRoute (s : State) (x : Transport) : (s.withTransport x).fRoute = s.fRoute := rfl
@[simp] theorem State.withTransport_fState (s : State) (x : Transport) : (s.withTransport x).fState = s.fState := rfl
@[simp] theorem State.withTransport_run (s : State) (x : Transport) : (s.withTransport x).run = s.run := rfl
@[simp] theorem State.withTransport_sampleOut (s : State) (x : Transport) : (s.withTransport x).sampleOut = s.sampleOut := rfl
@[simp] theorem State.withTransport_imem (s : State) (x : Transport) : (s.withTransport x).imem = s.imem := rfl
@[simp] theorem State.withTransport_fmem (s : State) (x : Transport) : (s.withTransport x).fmem = s.fmem := rfl
@[simp] theorem State.withTransport_pending (s : State) (x : Transport) : (s.withTransport x).pending = s.pending := rfl
@[simp] theorem State.withTransport_transport (s : State) (x : Transport) : (s.withTransport x).transport = x := rfl
@[simp] theorem State.withTransport_active (s : State) (x : Transport) : (s.withTransport x).active = s.active := rfl
@[simp] theorem State.withTransport_pfRaw (s : State) (x : Transport) : (s.withTransport x).pfRaw = s.pfRaw := rfl

@[simp] theorem State.withActive_build (s : State) (c : Nat) : (s.withActive c).build = s.build := rfl
@[simp] theorem State.withActive_voices (s : State) (c : Nat) : (s.withActive c).voices = s.voices := rfl
@[simp] theorem State.withActive_fCutoff (s : State) (c : Nat) : (s.withActive c).fCutoff = s.fCutoff := rfl
@[simp] theorem State.withActive_fRes (s : State) (c : Nat) : (s.withActive c).fRes = s.fRes := rfl
@[simp] theorem State.withActive_fType (s : State) (c : Nat) : (s.withActive c).fType = s.fType := rfl
@[simp] theorem State.withActive_fRoute (s : State) (c : Nat) : (s.withActive c).fRoute = s.fRoute := rfl
@[simp] theorem State.withActive_fState (s : State) (c : Nat) : (s.withActive c).fState = s.fState := rfl
@[simp] theorem State.withActive_run (s : State) (c : Nat) : (s.withActive c).run = s.run := rfl
@[simp] theorem State.withActive_sampleOut (s : State) (c : Nat) : (s.withActive c).sampleOut = s.sampleOut := rfl
@[simp] theorem State.withActive_imem (s : State) (c : Nat) : (s.withActive c).imem = s.imem := rfl
@[simp] theorem State.withActive_fmem (s : State) (c : Nat) : (s.withActive c).fmem = s.fmem := rfl
@[simp] theorem State.withActive_pending (s : State) (c : Nat) : (s.withActive c).pending = s.pending := rfl
@[simp] theorem State.withActive_transport (s : State) (c : Nat) : (s.withActive c).transport = s.transport := rfl
@[simp] theorem State.withActive_active (s : State) (c : Nat) : (s.withActive c).active = c := rfl
@[simp] theorem State.withActive_pfRaw (s : State) (c : Nat) : (s.withActive c).pfRaw = s.pfRaw := rfl

@[simp] theorem State.withPfRaw_build (s : State) (p : Int) : (s.withPfRaw p).build = s.build := rfl
@[simp] theorem State.withPfRaw_voices (s : State) (p : Int) : (s.withPfRaw p).voices = s.voices := rfl
@[simp] theorem State.withPfRaw_fCutoff (s : State) (p : Int) : (s.withPfRaw p).fCutoff = s.fCutoff := rfl
@[simp] theorem State.withPfRaw_fRes (s : State) (p : Int) : (s.withPfRaw p).fRes = s.fRes := rfl
@[simp] theorem State.withPfRaw_fType (s : State) (p : Int) : (s.withPfRaw p).fType = s.fType := rfl
@[simp] theorem State.withPfRaw_fRoute (s : State) (p : Int) : (s.withPfRaw p).fRoute = s.fRoute := rfl
@[simp] theorem State.withPfRaw_fState (s : State) (p : Int) : (s.withPfRaw p).fState = s.fState := rfl
@[simp] theorem State.withPfRaw_run (s : State) (p : Int) : (s.withPfRaw p).run = s.run := rfl
@[simp] theorem State.withPfRaw_sampleOut (s : State) (p : Int) : (s.withPfRaw p).sampleOut = s.sampleOut := rfl
@[simp] theorem State.withPfRaw_imem (s : State) (p : Int) : (s.withPfRaw p).imem = s.imem := rfl
@[simp] theorem State.withPfRaw_fmem (s : State) (p : Int) : (s.withPfRaw p).fmem = s.fmem := rfl
@[simp] theorem State.withPfRaw_pending (s : State) (p : Int) : (s.withPfRaw p).pending = s.pending := rfl
@[simp] theorem State.withPfRaw_transport (s : State) (p : Int) : (s.withPfRaw p).transport = s.transport := rfl
@[simp] theorem State.withPfRaw_active (s : State) (p : Int) : (s.withPfRaw p).active = s.active := rfl
@[simp] theorem State.withPfRaw_pfRaw (s : State) (p : Int) : (s.withPfRaw p).pfRaw = p := rfl

@[simp] theorem State.modActive_build (s : State) (f : Voice → Voice) : (s.modActive f).build = s.build := rfl
@[simp] theorem State.modActive_voices (s : State) (f : Voice → Voice) : (s.modActive f).voices = s.voices.modify s.active f := rfl
@[simp] theorem State.modActive_fCutoff (s : State) (f : Voice → Voice) : (s.modActive f).fCutoff = s.fCutoff := rfl
@[simp] theorem State.modActive_fRes (s : State) (f : Voice → Voice) : (s.modActive f).fRes = s.fRes := rfl
@[simp] theorem State.modActive_fType (s : State) (f : Voice → Voice) : (s.modActive f).fType = s.fType := rfl
@[simp] theorem State.modActive_fRoute (s : State) (f : Voice → Voice) : (s.modActive f).fRoute = s.fRoute := rfl
@[simp] theorem State.modActive_fState (s : State) (f : Voice → Voice) : (s.modActive f).fState = s.fState := rfl
@[simp] theorem State.modActive_run (s : State) (f : Voice → Voice) : (s.modActive f).run = s.run := rfl
@[simp] theorem State.modActive_sampleOut (s : State) (f : Voice → Voice) : (s.modActive f).sampleOut = s.sampleOut := rfl
@[simp] theorem State.modActive_imem (s : State) (f : Voice → Voice) : (s.modActive f).imem = s.imem := rfl
@[simp] theorem State.modActive_fmem (s : State) (f : Voice → Voice) : (s.modActive f).fmem = s.fmem := rfl
@[simp] theorem State.modActive_pending (s : State) (f : Voice → Voice) : (s.modActive f).pending = s.pending := rfl
@[simp] theorem State.modActive_transport (s : State) (f : Voice → Voice) : (s.modActive f).transport = s.transport := rfl
@[simp] theorem State.modActive_active (s : State) (f : Voice → Voice) : (s.modActive f).active = s.active := rfl
@[simp] theorem State.modActive_pfRaw (s : State) (f : Voice → Voice) : (s.modActive f).pfRaw = s.pfRaw := rfl

/-- A read of channel `c` after an update of the same channel. -/
@[simp] theorem State.voice_modVoice_same (s : State) (c : Nat) (f : Voice → Voice) (h : c < s.voices.length) :
    (s.modVoice c f).voice c = f (s.voice c) := by
  simp [State.voice, State.modVoice, List.getD_eq_getElem?_getD, h]

/-- A read of another channel. -/
@[simp] theorem State.voice_modVoice_other (s : State) (c d : Nat) (f : Voice → Voice) (h : d ≠ c) :
    (s.modVoice c f).voice d = s.voice d := by
  simp [State.voice, State.modVoice, List.getD_eq_getElem?_getD, Ne.symm h]

/-- An update of a channel that does not exist changes nothing. -/
theorem State.modVoice_missing (s : State) (c : Nat) (f : Voice → Voice) (h : s.voices.length ≤ c) :
    s.modVoice c f = s := by
  have : s.voices.modify c f = s.voices := by
    apply List.ext_getElem?
    intro i
    rw [List.getElem?_modify]
    split
    · subst_vars
      simp [List.getElem?_eq_none h]
    · simp
  simp [State.modVoice, this]

/-- No channel appears or disappears. -/
@[simp] theorem State.modVoice_length (s : State) (c : Nat) (f : Voice → Voice) :
    (s.modVoice c f).voices.length = s.voices.length := by
  simp [State.modVoice]

/-- A read of the active channel after an update of it. -/
@[simp] theorem State.activeVoice_modActive (s : State) (f : Voice → Voice) (h : s.active < s.voices.length) :
    (s.modActive f).activeVoice = f s.activeVoice :=
  s.voice_modVoice_same s.active f h

/-- A register read of any channel after an update of one: the update where the channel is that one and exists. -/
theorem State.voice_modVoice (s : State) (c d : Nat) (f : Voice → Voice) :
    (s.modVoice c f).voice d = if d = c ∧ c < s.voices.length then f (s.voice d) else s.voice d := by
  by_cases hd : d = c
  · subst hd
    by_cases h : d < s.voices.length
    · simp [h]
    · simp [h, State.modVoice_missing s d f (Nat.le_of_not_lt h)]
  · simp [hd]

/-- A read of a channel that does not exist. -/
theorem State.voice_missing (s : State) (c : Nat) (h : s.voices.length ≤ c) : s.voice c = voiceReset := by
  simp [State.voice, List.getD_eq_getElem?_getD, List.getElem?_eq_none h]

/-- The registers of an existing channel are one of the listed ones. -/
theorem State.voice_mem (s : State) (c : Nat) (h : c < s.voices.length) : s.voice c ∈ s.voices := by
  simp [State.voice, List.getD_eq_getElem?_getD, List.getElem?_eq_getElem h]

end Sys2Proof.Machine
end

