-- ==== Sys2Proof/Laws/Interp.lean ====
section
/-! SUPPORT. What the interpreters can do. The registers of a channel after its interpreters are a function of its own
registers, the build and the program memory (`interpVoice`); every other channel stands; beside the voices only the four
filter control registers and the model's row context change. -/

namespace Sys2Proof.Machine

/-- Two updates of one place of a list are one. -/
theorem modify_modify_same (l : List Voice) (c : Nat) (f g : Voice → Voice) :
    (l.modify c f).modify c g = l.modify c (fun v => g (f v)) := by
  apply List.ext_getElem?
  intro i
  simp only [List.getElem?_modify]
  split <;> cases l[i]? <;> simp

/-- Two updates of one channel are one. -/
theorem State.modVoice_modVoice (s : State) (c : Nat) (f g : Voice → Voice) :
    (s.modVoice c f).modVoice c g = s.modVoice c (fun v => g (f v)) := by
  simp [State.modVoice, modify_modify_same]

/-- What a wave row does to the registers of the channel that executes it. -/
def waveRowVoice (row : Word16) (v : Voice) : Voice :=
  let value := row.extractLsb' 0 5
  let op := row.extractLsb' 5 2
  { v with
    flags := row.extractLsb' 7 7
    pw := if op = 0 then value else if op = 1 then incClamp pwMax v.pw value
      else if op = 2 then decClamp v.pw value else v.pw }

/-- A fetched wave row rewrites the active channel and nothing else. -/
theorem runRow_wave (row : Word16) (s : State) :
    runRow (decodeWave row) s = s.modActive (waveRowVoice row) := by
  unfold decodeWave waveRowVoice
  dsimp only
  split
  · simp [runRow, wsetRow, waveRow, latchFlags, *]
  · split
    · simp [runRow, wincRow, waveRow, latchFlags, *]
    · split
      · simp [runRow, wdecRow, waveRow, latchFlags, *]
      · simp [runRow, wrsvRow, waveRow, latchFlags, *]

/-- What a filter row does to the cutoff register. -/
def filterRowCutoff (row : Word16) (k : BitVec 5) : BitVec 5 :=
  let value := row.extractLsb' 0 5
  let op := row.extractLsb' 5 2
  if op = 0 then value else if op = 1 then incClamp cutMax k value else if op = 2 then decClamp k value else k

/-- A fetched filter row writes the four filter control registers and nothing else. -/
theorem runRow_filter (row : Word16) (s : State) :
    runRow (decodeFilter row) s =
      s.withFilter (filterRowCutoff row s.fCutoff) (row.extractLsb' 8 4) (row.extractLsb' 12 3)
        (s.insRoute s.activeVoice.curIns.toNat) := by
  unfold decodeFilter filterRowCutoff
  dsimp only
  split
  · simp [runRow, fsetRow, filterRow]
  · split
    · simp [runRow, fincRow, filterRow]
    · split
      · simp [runRow, fdecRow, filterRow]
      · simp [runRow, frsvRow, filterRow]

/-- The raw fine pitch of an effect row over a note. -/
def effectRowPitch (b : Build) (row : Word16) (note : BitVec 8) : Int :=
  let value := row.extractLsb' 0 8
  let op := row.extractLsb' 8 2
  if op = 0 then ((note.toNat : Int) + effectOffset value) * (fine b : Int)
  else if op = 1 then (value.toNat : Int) * (fine b : Int)
  else if op = 2 then (note.toNat : Int) * (fine b : Int) + effectOffset value
  else (note.toNat : Int) * (fine b : Int)

/-- A fetched effect row writes the raw fine pitch and nothing else. -/
theorem runRow_effect (row : Word16) (s : State) :
    runRow (decodeEffect row) s = s.withPfRaw (effectRowPitch s.build row s.activeVoice.note) := by
  unfold decodeEffect effectRowPitch
  dsimp only
  split
  · simp [runRow, erelRow]
  · split
    · simp [runRow, eabsRow]
    · split
      · simp [runRow, edetRow, State.basePitch]
      · simp [runRow, ersvRow, State.basePitch]

/-- The plan of a wave program over a channel's registers. -/
def wavePlanOf (s : State) (v : Voice) : Option (Nat × BitVec 8) :=
  if v.curIns = 0 then none
  else fetchPlan (s.insWord v.curIns.toNat 1) (maxInstrumentLength s.build) v.insPos

/-- The plan of a filter program over a channel's registers. -/
def filterPlanOf (s : State) (v : Voice) : Option (Nat × BitVec 8) :=
  if v.curIns = 0 then none
  else fetchPlan (s.insWord v.curIns.toNat 3) (maxFilterLength s.build) v.fltPos

/-- The plan of an effect program over a channel's registers. -/
def effectPlanOf (s : State) (v : Voice) : Option (Nat × BitVec 8) :=
  if v.curFx = 0 then none
  else fetchPlan (s.fxWord v.curFx.toNat 0) (maxEffectLength s.build) v.fxPos

/-- The wave interpreter's effect on a channel's registers. -/
def waveVoice (s : State) (v : Voice) : Voice :=
  match wavePlanOf s v with
  | none => v
  | some (p, next) => { waveRowVoice (s.insWord v.curIns.toNat (4 + p)) v with insPos := next }

/-- The filter interpreter's effect on a channel's registers: its cursor. -/
def filterVoice (s : State) (v : Voice) : Voice :=
  match filterPlanOf s v with
  | none => v
  | some (_, next) => { v with fltPos := next }

/-- The filter row a channel's filter interpreter executes, if it does. -/
def filterRowOf (s : State) (v : Voice) : Option Word16 :=
  match filterPlanOf s v with
  | none => none
  | some (p, _) => some (s.insWord v.curIns.toNat (4 + maxInstrumentLength s.build + p))

/-- The effect interpreter's effect on a channel's registers: its cursor. -/
def effectVoice (s : State) (v : Voice) : Voice :=
  match effectPlanOf s v with
  | none => v
  | some (_, next) => { v with fxPos := next }

/-- The raw fine pitch that a channel's effect interpreter leaves (R250, R255). -/
def effectPitch (s : State) (v : Voice) : Int :=
  match effectPlanOf s v with
  | none => (v.note.toNat : Int) * (fine s.build : Int)
  | some (p, _) => effectRowPitch s.build (s.fxWord v.curFx.toNat (1 + p)) v.note

/-- The registers of a channel after its three interpreters and its pitch path. -/
def interpVoice (s : State) (v : Voice) : Voice :=
  { effectVoice s (filterVoice s (waveVoice s v)) with freq := pitchFreq s.build v.note (effectPitch s v) }

/-- The filter registers after a filter row of Instrument `ins`. -/
def State.afterFilterRow (s : State) (ins : Nat) : Option Word16 → State
  | none => s
  | some row =>
    s.withFilter (filterRowCutoff row s.fCutoff) (row.extractLsb' 8 4) (row.extractLsb' 12 3) (s.insRoute ins)

/-- All the wave interpreter can do: rewrite the active channel's flags, pulse width and cursor. -/
theorem waveStep_spec (s : State) :
    ∃ f, waveStep s = s.modActive f ∧ f s.activeVoice = waveVoice s s.activeVoice := by
  unfold waveStep waveVoice
  have hp : s.wavePlan = wavePlanOf s s.activeVoice := rfl
  rw [hp]
  cases wavePlanOf s s.activeVoice with
  | none => exact ⟨id, by simp [State.modActive, State.modVoice, List.modify_id], rfl⟩
  | some pn =>
    refine ⟨fun v => { waveRowVoice (s.waveRowAt pn.1) v with insPos := pn.2 }, ?_, rfl⟩
    dsimp only
    rw [runRow_wave]
    exact s.modVoice_modVoice _ _ _

/-- All the filter interpreter can do: write the filter control registers and its own cursor. -/
theorem filterStep_spec (s : State) :
    ∃ f, filterStep s = (s.afterFilterRow s.activeVoice.curIns.toNat (filterRowOf s s.activeVoice)).modActive f
      ∧ f s.activeVoice = filterVoice s s.activeVoice := by
  unfold filterStep filterVoice filterRowOf
  have hp : s.filterPlan = filterPlanOf s s.activeVoice := rfl
  rw [hp]
  cases filterPlanOf s s.activeVoice with
  | none => exact ⟨id, by simp [State.modActive, State.modVoice, List.modify_id, State.afterFilterRow], rfl⟩
  | some pn =>
    refine ⟨fun v => { v with fltPos := pn.2 }, ?_, rfl⟩
    dsimp only
    rw [runRow_filter]
    rfl

/-- All the effect interpreter can do: set the raw fine pitch and its own cursor. -/
theorem effectStep_spec (s : State) :
    ∃ f, effectStep s = (s.withPfRaw (effectPitch s s.activeVoice)).modActive f
      ∧ f s.activeVoice = effectVoice s s.activeVoice := by
  unfold effectStep effectVoice effectPitch
  have hp : s.effectPlan = effectPlanOf s s.activeVoice := rfl
  rw [hp]
  cases effectPlanOf s s.activeVoice with
  | none =>
    exact ⟨id, by simp [State.modActive, State.modVoice, List.modify_id, State.basePitch, State.withPfRaw], rfl⟩
  | some pn =>
    refine ⟨fun v => { v with fxPos := pn.2 }, ?_, rfl⟩
    dsimp only
    rw [runRow_effect]
    rfl

/-- The parts of the state the interpreters read and never write: the build and the program memory (R81). -/
def SameProgram (s t : State) : Prop := t.build = s.build ∧ t.imem = s.imem ∧ t.fmem = s.fmem

theorem SameProgram.insWord {s t : State} (h : SameProgram s t) (i k : Nat) : t.insWord i k = s.insWord i k := by
  simp [State.insWord, h.1, h.2.1]

theorem SameProgram.fxWord {s t : State} (h : SameProgram s t) (i k : Nat) : t.fxWord i k = s.fxWord i k := by
  simp [State.fxWord, h.1, h.2.2]

theorem SameProgram.filterPlanOf_eq {s t : State} (h : SameProgram s t) (v : Voice) :
    filterPlanOf t v = filterPlanOf s v := by
  simp only [filterPlanOf, h.insWord, h.1]

theorem SameProgram.effectPlanOf_eq {s t : State} (h : SameProgram s t) (v : Voice) :
    effectPlanOf t v = effectPlanOf s v := by
  simp only [effectPlanOf, h.fxWord, h.1]

theorem SameProgram.wavePlanOf_eq {s t : State} (h : SameProgram s t) (v : Voice) :
    wavePlanOf t v = wavePlanOf s v := by
  simp only [wavePlanOf, h.insWord, h.1]

theorem SameProgram.waveVoice_eq {s t : State} (h : SameProgram s t) (v : Voice) : waveVoice t v = waveVoice s v := by
  simp only [waveVoice, h.wavePlanOf_eq, h.insWord]

theorem SameProgram.filterVoice_eq {s t : State} (h : SameProgram s t) (v : Voice) :
    filterVoice t v = filterVoice s v := by
  simp only [filterVoice, h.filterPlanOf_eq]

theorem SameProgram.effectVoice_eq {s t : State} (h : SameProgram s t) (v : Voice) :
    effectVoice t v = effectVoice s v := by
  simp only [effectVoice, h.effectPlanOf_eq]

theorem SameProgram.effectPitch_eq {s t : State} (h : SameProgram s t) (v : Voice) :
    effectPitch t v = effectPitch s v := by
  simp only [effectPitch, h.effectPlanOf_eq, h.fxWord, h.1]

/-- What a channel's interpreters leave in its registers is a function of the build, the program memory and those
registers. -/
theorem SameProgram.interpVoice_eq {s t : State} (h : SameProgram s t) (v : Voice) :
    interpVoice t v = interpVoice s v := by
  simp only [interpVoice, h.waveVoice_eq, h.filterVoice_eq, h.effectVoice_eq, h.effectPitch_eq, h.1]

theorem sameProgram_afterFilterRow (s : State) (i : Nat) (r : Option Word16) : SameProgram s (s.afterFilterRow i r) := by
  cases r <;> exact ⟨rfl, rfl, rfl⟩

theorem afterFilterRow_voices (s : State) (i : Nat) (r : Option Word16) :
    (s.afterFilterRow i r).voices = s.voices ∧ (s.afterFilterRow i r).active = s.active := by
  cases r <;> exact ⟨rfl, rfl⟩

theorem SameProgram.filterRowOf_eq {s t : State} (h : SameProgram s t) (v : Voice) :
    filterRowOf t v = filterRowOf s v := by
  simp only [filterRowOf, h.filterPlanOf_eq, h.insWord, h.1]

/-- An update of the active channel leaves the program alone. -/
theorem sameProgram_modActive (s : State) (f : Voice → Voice) : SameProgram s (s.modActive f) := ⟨rfl, rfl, rfl⟩

/-- The wave interpreter does not move what the later interpreters of the channel read of its registers. -/
theorem waveVoice_later (s : State) (v : Voice) :
    (waveVoice s v).curIns = v.curIns ∧ (waveVoice s v).curFx = v.curFx ∧ (waveVoice s v).fltPos = v.fltPos
      ∧ (waveVoice s v).fxPos = v.fxPos ∧ (waveVoice s v).note = v.note := by
  unfold waveVoice
  split <;> simp [waveRowVoice]

theorem filterVoice_later (s : State) (v : Voice) :
    (filterVoice s v).curFx = v.curFx ∧ (filterVoice s v).fxPos = v.fxPos ∧ (filterVoice s v).note = v.note := by
  unfold filterVoice
  split <;> simp

theorem filterRowOf_waveVoice (s : State) (v : Voice) : filterRowOf s (waveVoice s v) = filterRowOf s v := by
  obtain ⟨h1, -, h3, -, -⟩ := waveVoice_later s v
  simp only [filterRowOf, filterPlanOf, h1, h3]

theorem effectPitch_filterVoice_waveVoice (s : State) (v : Voice) :
    effectPitch s (filterVoice s (waveVoice s v)) = effectPitch s v := by
  obtain ⟨-, h2, -, h4, h5⟩ := waveVoice_later s v
  obtain ⟨g1, g2, g3⟩ := filterVoice_later s (waveVoice s v)
  simp only [effectPitch, effectPlanOf, g1, g2, g3, h2, h4, h5]

theorem effectVoice_note (s : State) (v : Voice) : (effectVoice s v).note = v.note := by
  unfold effectVoice
  split <;> rfl

/-- Writing the filter registers and rewriting a channel commute. -/
theorem afterFilterRow_modVoice (s : State) (c i : Nat) (f : Voice → Voice) (r : Option Word16) :
    (s.modVoice c f).afterFilterRow i r = (s.afterFilterRow i r).modVoice c f := by
  cases r <;> rfl

theorem pitchPath_eq (s : State) :
    pitchPath s = s.modActive fun v => { v with freq := pitchFreq s.build v.note s.pfRaw } := rfl

/-- All the interpreters of an existing channel can do (R196): its registers become `interpVoice` of them, the filter
control registers those of its filter row if it executes one, and the model's row context its own. -/
theorem interpretChannel_spec (s : State) (c : Nat) (hc : c < s.voices.length) :
    ∃ f, f (s.voice c) = interpVoice s (s.voice c)
      ∧ interpretChannel s c =
        (((s.afterFilterRow (s.voice c).curIns.toNat (filterRowOf s (s.voice c))).modVoice c f).withActive c).withPfRaw
          (effectPitch s (s.voice c)) := by
  have p0 : SameProgram s (s.withActive c) := ⟨rfl, rfl, rfl⟩
  have a0 : (s.withActive c).activeVoice = s.voice c := rfl
  obtain ⟨f1, e1, g1⟩ := waveStep_spec (s.withActive c)
  rw [a0, p0.waveVoice_eq] at g1
  have p1 : SameProgram s (waveStep (s.withActive c)) := by rw [e1]; exact ⟨rfl, rfl, rfl⟩
  have a1 : (waveStep (s.withActive c)).activeVoice = waveVoice s (s.voice c) := by
    rw [e1, State.activeVoice_modActive _ _ hc, a0, g1]
  obtain ⟨f2, e2, g2⟩ := filterStep_spec (waveStep (s.withActive c))
  rw [a1, p1.filterVoice_eq] at g2
  rw [a1, p1.filterRowOf_eq, filterRowOf_waveVoice, (waveVoice_later s (s.voice c)).1, e1] at e2
  have e2' : filterStep (waveStep (s.withActive c)) =
      ((s.afterFilterRow (s.voice c).curIns.toNat (filterRowOf s (s.voice c))).modVoice c (fun v => f2 (f1 v))).withActive
        c := by
    rw [e1, e2]
    cases filterRowOf s (s.voice c) <;>
      simp only [State.modActive, State.modVoice, State.withActive, State.afterFilterRow, State.withFilter,
        modify_modify_same]
    all_goals rfl
  have hlen : c < (filterStep (waveStep (s.withActive c))).voices.length := by
    rw [e2']
    simpa [(afterFilterRow_voices s _ _).1] using hc
  have hact : (filterStep (waveStep (s.withActive c))).active = c := by rw [e2']; rfl
  have a2 : (filterStep (waveStep (s.withActive c))).activeVoice = filterVoice s (waveVoice s (s.voice c)) := by
    rw [State.activeVoice, hact, e2']
    show ((s.afterFilterRow _ _).modVoice c _).voice c = _
    rw [State.voice_modVoice_same _ _ _ (by simpa [(afterFilterRow_voices s _ _).1] using hc)]
    show f2 (f1 ((s.afterFilterRow _ _).voices.getD c voiceReset)) = _
    rw [(afterFilterRow_voices s _ _).1]
    show f2 (f1 (s.voice c)) = _
    rw [g1, g2]
  have p2 : SameProgram s (filterStep (waveStep (s.withActive c))) := by
    rw [e2']
    exact sameProgram_afterFilterRow s _ _
  obtain ⟨f3, e3, g3⟩ := effectStep_spec (filterStep (waveStep (s.withActive c)))
  rw [a2, p2.effectVoice_eq] at g3
  rw [a2, p2.effectPitch_eq, effectPitch_filterVoice_waveVoice] at e3
  refine ⟨fun v => { f3 (f2 (f1 v)) with freq := pitchFreq s.build (f3 (f2 (f1 v))).note (effectPitch s (s.voice c)) },
    ?_, ?_⟩
  · have hn : (effectVoice s (filterVoice s (waveVoice s (s.voice c)))).note = (s.voice c).note := by
      rw [effectVoice_note, (filterVoice_later s _).2.2, (waveVoice_later s _).2.2.2.2]
    simp only [g1, g2, g3, interpVoice, hn]
  · show pitchPath (effectStep (filterStep (waveStep (s.withActive c)))) = _
    rw [pitchPath_eq, e3, e2']
    cases filterRowOf s (s.voice c) <;>
      simp only [State.modActive, State.modVoice, State.withActive, State.withPfRaw, State.afterFilterRow,
        State.withFilter, modify_modify_same]

end Sys2Proof.Machine
end

