-- ==== Sys2Proof/Laws/Memory.lean ====
section
/-! SUPPORT. The memory operations keep the canonical form and the bounds of a space; a read after a write to the same
place gives the value written; a write leaves every other place alone. -/

namespace Sys2Proof.Machine

/-- A canonical list above a bound is one above any lower bound. -/
theorem Memory.wfFrom_mono {lo lo' : Nat} (h : lo' ≤ lo) : ∀ {m : Memory}, Memory.wfFrom lo m = true →
    Memory.wfFrom lo' m = true
  | [], _ => rfl
  | (a, v) :: m, hm => by
    simp only [Memory.wfFrom, Bool.and_eq_true, decide_eq_true_eq] at hm ⊢
    exact ⟨⟨Nat.le_trans h hm.1.1, hm.1.2⟩, hm.2⟩

/-- An address below every listed one reads as an unlisted one. -/
theorem readByte_below {lo : Nat} : ∀ {m : Memory}, Memory.wfFrom lo m = true → ∀ a, a < lo →
    readByte m a = unlistedByte
  | [], _, _, _ => rfl
  | (k, v) :: m, hm, a, ha => by
    simp only [Memory.wfFrom, Bool.and_eq_true, decide_eq_true_eq] at hm
    have hk : a ≠ k := by omega
    simp only [readByte, if_neg hk]
    exact readByte_below hm.2 a (by omega)

theorem consByte_wfFrom {lo a : Nat} {v : Byte} {m : Memory} (ha : lo ≤ a) (hm : Memory.wfFrom (a + 1) m = true) :
    Memory.wfFrom lo (consByte a v m) = true := by
  unfold consByte
  split
  · exact Memory.wfFrom_mono (by omega) hm
  · rename_i hv
    simp [Memory.wfFrom, ha, hv, hm]

/-- A write keeps the canonical form above a bound. -/
theorem writeByte_wfFrom {lo : Nat} : ∀ {m : Memory}, Memory.wfFrom lo m = true → ∀ (a : Nat) (v : Byte), lo ≤ a →
    Memory.wfFrom lo (writeByte m a v) = true
  | [], _, a, v, ha => consByte_wfFrom ha rfl
  | (k, w) :: m, hm, a, v, ha => by
    have hm' := hm
    simp only [Memory.wfFrom, Bool.and_eq_true, decide_eq_true_eq] at hm'
    simp only [writeByte]
    split
    · rename_i hlt
      refine consByte_wfFrom ha ?_
      simp [Memory.wfFrom, hm'.2, hm'.1.2]
      omega
    · split
      · rename_i _ he
        subst he
        exact consByte_wfFrom ha hm'.2
      · simp only [Memory.wfFrom, Bool.and_eq_true, decide_eq_true_eq]
        exact ⟨hm'.1, writeByte_wfFrom hm'.2 a v (by omega)⟩

/-- A byte write keeps the canonical form. -/
theorem writeByte_wf {m : Memory} (hm : m.wf = true) (a : Nat) (v : Byte) : (writeByte m a v).wf = true :=
  writeByte_wfFrom hm a v (Nat.zero_le a)

/-- A word write keeps the canonical form. -/
theorem writeWord_wf {m : Memory} (hm : m.wf = true) (a : Nat) (v : Word16) : (writeWord m a v).wf = true :=
  writeByte_wf (writeByte_wf hm _ _) _ _

theorem consByte_below {hi a : Nat} {v : Byte} {m : Memory} (ha : a < hi) (hm : Memory.below hi m = true) :
    Memory.below hi (consByte a v m) = true := by
  unfold consByte
  split
  · exact hm
  · simp [Memory.below, ha, hm]

/-- A byte write inside a space leaves nothing listed outside it. -/
theorem writeByte_below {hi : Nat} : ∀ {m : Memory}, Memory.below hi m = true → ∀ (a : Nat) (v : Byte), a < hi →
    Memory.below hi (writeByte m a v) = true
  | [], _, a, v, ha => consByte_below ha rfl
  | (k, w) :: m, hm, a, v, ha => by
    have hm' := hm
    simp only [Memory.below, Bool.and_eq_true, decide_eq_true_eq] at hm'
    simp only [writeByte]
    split
    · exact consByte_below ha hm
    · split
      · exact consByte_below ha hm'.2
      · simp only [Memory.below, Bool.and_eq_true, decide_eq_true_eq]
        exact ⟨hm'.1, writeByte_below hm'.2 a v ha⟩

/-- A word write inside a space leaves nothing listed outside it. -/
theorem writeWord_below {n : Nat} {m : Memory} (hm : Memory.below (2 * n) m = true) (a : Nat) (v : Word16) (ha : a < n) :
    Memory.below (2 * n) (writeWord m a v) = true :=
  writeByte_below (writeByte_below hm _ _ (by omega)) _ _ (by omega)

theorem readByte_consByte_same {a : Nat} {v : Byte} {m : Memory} (hm : Memory.wfFrom (a + 1) m = true) :
    readByte (consByte a v m) a = v := by
  unfold consByte
  split
  · rename_i h
    rw [h]
    exact readByte_below hm a (by omega)
  · simp [readByte]

theorem readByte_consByte_other {a b : Nat} {v : Byte} {m : Memory} (h : b ≠ a) :
    readByte (consByte a v m) b = readByte m b := by
  unfold consByte
  split
  · rfl
  · simp [readByte, h]

/-- A read of the byte just written. -/
theorem readByte_writeByte_same {lo : Nat} : ∀ {m : Memory}, Memory.wfFrom lo m = true → ∀ (a : Nat) (v : Byte),
    readByte (writeByte m a v) a = v
  | [], _, a, v => readByte_consByte_same rfl
  | (k, w) :: m, hm, a, v => by
    have hm' := hm
    simp only [Memory.wfFrom, Bool.and_eq_true, decide_eq_true_eq] at hm'
    simp only [writeByte]
    split
    · rename_i hlt
      refine readByte_consByte_same ?_
      simp [Memory.wfFrom, hm'.2, hm'.1.2]
      omega
    · split
      · rename_i _ he
        subst he
        exact readByte_consByte_same hm'.2
      · rename_i _ hne
        simp only [readByte, if_neg hne]
        exact readByte_writeByte_same hm'.2 a v

/-- A write leaves every other byte as it was. -/
theorem readByte_writeByte_other {a b : Nat} (h : b ≠ a) (v : Byte) : ∀ (m : Memory),
    readByte (writeByte m a v) b = readByte m b
  | [] => readByte_consByte_other h
  | (k, w) :: m => by
    simp only [writeByte]
    split
    · exact readByte_consByte_other h
    · split
      · rename_i _ he
        subst he
        rw [readByte_consByte_other h]
        simp [readByte, h]
      · simp only [readByte, readByte_writeByte_other h v m]

/-- A read of the word just written (R61). -/
theorem readWord_writeWord_same {m : Memory} (hm : m.wf = true) (a : Nat) (v : Word16) :
    readWord (writeWord m a v) a = v := by
  unfold readWord writeWord
  rw [readByte_writeByte_same (writeByte_wf hm _ _), readByte_writeByte_other (by omega),
    readByte_writeByte_same hm]
  ext i hi
  simp only [BitVec.getElem_append, BitVec.getElem_extractLsb']
  split
  · simp [BitVec.getElem_eq_testBit_toNat, BitVec.getLsbD]
  · rw [BitVec.getLsbD_eq_getElem (by omega)]
    congr 1
    omega

/-- A word write leaves every other word as it was (R61). -/
theorem readWord_writeWord_other {a b : Nat} (h : b ≠ a) (m : Memory) (v : Word16) :
    readWord (writeWord m a v) b = readWord m b := by
  unfold readWord writeWord
  rw [readByte_writeByte_other (by omega), readByte_writeByte_other (by omega),
    readByte_writeByte_other (by omega), readByte_writeByte_other (by omega)]

end Sys2Proof.Machine
end

