-- ==== Sys2Proof/Laws/Tick.lean ====
section
/-! SUPPORT. What a TICK can do, phase by phase (R290): the registers of each channel afterwards as a function of the
state before, and what stands. -/

namespace Sys2Proof.Machine

/-- Every build has at least one channel and at most fifteen (R7). -/
theorem channelCount_bounds (b : Build) : 1 ≤ channelCount b ∧ channelCount b ≤ 15 := by
  cases b <;> simp only [channelCount, clampNat] <;> omega

/-- The neighbour function goes from the channels to the channels (R171). -/
theorem neighbour_lt (b : Build) (c : Nat) : neighbour b c < channelCount b := by
  have := (channelCount_bounds b).1
  cases b <;> exact Nat.mod_lt _ (by omega)

/-- The filter registers after the filter rows of the channels below `n`, in ascending order (R235). -/
def filtersBelow (s : State) : Nat → State
  | 0 => s
  | n + 1 => (filtersBelow s n).afterFilterRow (s.voice n).curIns.toNat (filterRowOf s (s.voice n))

theorem filtersBelow_sameProgram (s : State) : ∀ n, SameProgram s (filtersBelow s n)
  | 0 => ⟨rfl, rfl, rfl⟩
  | n + 1 => by
    have h := filtersBelow_sameProgram s n
    have g := sameProgram_afterFilterRow (filtersBelow s n) (s.voice n).curIns.toNat (filterRowOf s (s.voice n))
    exact ⟨g.1.trans h.1, g.2.1.trans h.2.1, g.2.2.trans h.2.2⟩

/-- The four filter control registers of two states agree. -/
def SameFilterControl (s t : State) : Prop :=
  t.fCutoff = s.fCutoff ∧ t.fRes = s.fRes ∧ t.fType = s.fType ∧ t.fRoute = s.fRoute

theorem SameFilterControl.afterFilterRow {s t : State} (h : SameFilterControl s t) (hp : SameProgram s t) (i : Nat)
    (r : Option Word16) : SameFilterControl (s.afterFilterRow i r) (t.afterFilterRow i r) := by
  obtain ⟨h1, h2, h3, h4⟩ := h
  cases r with
  | none => exact ⟨h1, h2, h3, h4⟩
  | some w => simp [SameFilterControl, State.afterFilterRow, h1, State.insRoute, hp.insWord, hp.1]

theorem afterFilterRow_rest (s : State) (i : Nat) (r : Option Word16) :
    (s.afterFilterRow i r).run = s.run ∧ (s.afterFilterRow i r).sampleOut = s.sampleOut
      ∧ (s.afterFilterRow i r).fState = s.fState ∧ (s.afterFilterRow i r).pending = s.pending
      ∧ (s.afterFilterRow i r).transport = s.transport := by
  cases r <;> exact ⟨rfl, rfl, rfl, rfl, rfl⟩

/-- What the interpreters leave alone in every channel and beside the channels (R81, R196, R336). -/
structure InterpFrame (s t : State) : Prop where
  program : SameProgram s t
  length : t.voices.length = s.voices.length
  run : t.run = s.run
  sampleOut : t.sampleOut = s.sampleOut
  fState : t.fState = s.fState
  pending : t.pending = s.pending
  transport : t.transport = s.transport

/-- All the interpreters of the channels below `n` can do (R196): each of those channels' registers become `interpVoice`
of them, the others stand, the filter control registers are those the filter rows leave in ascending order. -/
theorem interpretBelow_spec (s : State) : ∀ n, n ≤ s.voices.length →
    InterpFrame s (interpretBelow s n) ∧ SameFilterControl (filtersBelow s n) (interpretBelow s n)
      ∧ ∀ c, (interpretBelow s n).voice c = if c < n then interpVoice s (s.voice c) else s.voice c
  | 0, _ => ⟨⟨⟨rfl, rfl, rfl⟩, rfl, rfl, rfl, rfl, rfl, rfl⟩, ⟨rfl, rfl, rfl, rfl⟩, fun c => by simp [interpretBelow]⟩
  | n + 1, hn => by
    obtain ⟨hf, hc, hv⟩ := interpretBelow_spec s n (by omega)
    have hnl : n < (interpretBelow s n).voices.length := by rw [hf.length]; omega
    have hvn : (interpretBelow s n).voice n = s.voice n := by rw [hv]; simp
    obtain ⟨f, hfv, he⟩ := interpretChannel_spec (interpretBelow s n) n hnl
    rw [hvn, hf.program.interpVoice_eq] at hfv
    rw [hvn, hf.program.filterRowOf_eq] at he
    have ha := sameProgram_afterFilterRow (interpretBelow s n) (s.voice n).curIns.toNat (filterRowOf s (s.voice n))
    have hr := afterFilterRow_rest (interpretBelow s n) (s.voice n).curIns.toNat (filterRowOf s (s.voice n))
    have hl := afterFilterRow_voices (interpretBelow s n) (s.voice n).curIns.toNat (filterRowOf s (s.voice n))
    have heq : interpretBelow s (n + 1) = interpretChannel (interpretBelow s n) n := rfl
    rw [heq, he]
    refine ⟨⟨⟨ha.1.trans hf.program.1, ha.2.1.trans hf.program.2.1, ha.2.2.trans hf.program.2.2⟩, ?_,
      hr.1.trans hf.run, hr.2.1.trans hf.sampleOut, hr.2.2.1.trans hf.fState, hr.2.2.2.1.trans hf.pending,
      hr.2.2.2.2.trans hf.transport⟩, ?_, ?_⟩
    · simpa [hl.1] using hf.length
    · have hp : SameProgram (filtersBelow s n) (interpretBelow s n) := by
        have g := filtersBelow_sameProgram s n
        exact ⟨hf.program.1.trans g.1.symm, hf.program.2.1.trans g.2.1.symm, hf.program.2.2.trans g.2.2.symm⟩
      exact hc.afterFilterRow hp _ _
    · intro c
      show ((State.afterFilterRow _ _ _).modVoice n f).voice c = _
      rw [State.voice_modVoice]
      have hvc : ((interpretBelow s n).afterFilterRow (s.voice n).curIns.toNat (filterRowOf s (s.voice n))).voice c
          = (interpretBelow s n).voice c := by
        show (State.afterFilterRow _ _ _).voices.getD c voiceReset = _
        rw [hl.1]
        rfl
      rw [hvc, hl.1, hv c]
      by_cases h : c = n
      · subst h
        simp [hnl, hfv]
      · by_cases h' : c < n
        · simp [h, h', Nat.lt_succ_of_lt h']
        · have : ¬ c < n + 1 := by omega
          simp [h, h', this]

/-- Phase 1 of a TICK on a state with all its channels. -/
theorem interpretAll_spec (s : State) (hl : s.voices.length = channelCount s.build) :
    InterpFrame s (interpretAll s) ∧ SameFilterControl (filtersBelow s (channelCount s.build)) (interpretAll s)
      ∧ ∀ c, c < channelCount s.build → (interpretAll s).voice c = interpVoice s (s.voice c) := by
  obtain ⟨hf, hc, hv⟩ := interpretBelow_spec s (channelCount s.build) (by omega)
  refine ⟨⟨hf.program, hf.length, hf.run, hf.sampleOut, hf.fState, hf.pending, hf.transport⟩, hc, fun c h => ?_⟩
  show (interpretBelow s (channelCount s.build)).voice c = _
  rw [hv, if_pos h]

/-- Phase 2 of a TICK on one channel (R152). -/
theorem oscillateAll_voice (s : State) (c : Nat) (hc : c < s.voices.length) :
    (oscillateAll s).voice c = oscillate (phaseWrap (s.voice (neighbour s.build c))) (s.voice c) := by
  simp [oscillateAll, State.withVoices, State.voice, List.getD_eq_getElem?_getD, hc]

/-- The ADSR word is a function of the build, IMEM and the assigned Instrument. -/
theorem SameProgram.adsr_eq {s t : State} (h : SameProgram s t) (v : Voice) : t.adsr v = s.adsr v := by
  simp only [State.adsr, h.insWord]

/-- Phase 4 of a TICK on one channel (R161). -/
theorem envelopeAll_voice (s : State) (c : Nat) (hc : c < s.voices.length) :
    (envelopeAll s).voice c = envelope s.build (s.adsr (s.voice c)) (s.voice c) := by
  simp [envelopeAll, State.withVoices, State.voice, List.getD_eq_getElem?_getD, hc]

/-- The registers of a channel after a TICK, before the envelope: interpreters, then oscillator. -/
def oscVoice (s : State) (c : Nat) : Voice :=
  oscillate (phaseWrap (interpVoice s (s.voice (neighbour s.build c)))) (interpVoice s (s.voice c))

/-- The registers of a channel after a TICK with `run` = 1. -/
theorem tickRunning_voice (s : State) (hl : s.voices.length = channelCount s.build) (c : Nat)
    (hc : c < channelCount s.build) :
    (tickRunning s).voice c = envelope s.build (s.adsr (s.voice c)) (oscVoice s c) := by
  obtain ⟨hf, -, hv⟩ := interpretAll_spec s hl
  have hlen : c < (interpretAll s).voices.length := by rw [hf.length]; omega
  show (envelopeAll (oscillateAll (interpretAll s))).voice c = _
  rw [envelopeAll_voice _ _ (by simpa [oscillateAll] using hlen), oscillateAll_voice _ _ hlen, hv c hc]
  have hb : (interpretAll s).build = s.build := hf.program.1
  rw [hb, hv _ (neighbour_lt s.build c)]
  have hp : SameProgram s (oscillateAll (interpretAll s)) := hf.program
  rw [hp.adsr_eq]
  show envelope (oscillateAll (interpretAll s)).build _ _ = _
  rw [hp.1]
  have hcur : (oscillate (phaseWrap (interpVoice s (s.voice (neighbour s.build c)))) (interpVoice s (s.voice c))).curIns
      = (s.voice c).curIns := by
    show (effectVoice s (filterVoice s (waveVoice s (s.voice c)))).curIns = _
    have h1 : ∀ v, (effectVoice s v).curIns = v.curIns := fun v => by unfold effectVoice; split <;> rfl
    have h2 : ∀ v, (filterVoice s v).curIns = v.curIns := fun v => by unfold filterVoice; split <;> rfl
    rw [h1, h2, (waveVoice_later s _).1]
  simp only [State.adsr, hcur]
  rfl

end Sys2Proof.Machine
end

