-- ==== Sys2Proof/Laws/Operands.lean ====
section
/-! SUPPORT. What the operand forms and the updates of one channel can do: values, bounds and frames. -/

namespace Sys2Proof.Machine

/-- INCREMENT is the sum on integers, clamped (R213, R232). -/
theorem incClamp_toNat (r v : BitVec 5) : (incClamp 31 r v).toNat = min 31 (r.toNat + v.toNat) := by
  simp only [incClamp, BitVec.toNat_ofNat]
  omega

/-- DECREMENT is the difference on integers, clamped at 0 (R214, R233). -/
theorem decClamp_toNat (r v : BitVec 5) : (decClamp r v).toNat = r.toNat - v.toNat := by
  simp only [decClamp, BitVec.toNat_ofNat]
  omega

/-- A resolved index is 0 or within its count (R121). -/
theorem resolveIndex_le (count : Nat) (i : BitVec 8) : (resolveIndex count i).toNat ≤ count := by
  unfold resolveIndex
  split
  · rename_i h
    exact h.2
  · exact Nat.zero_le _

/-- An index within its count resolves to itself, any other to 0; the test for 0 is the test of the range (R121). -/
theorem resolveIndex_ne_zero (count : Nat) (i : BitVec 8) :
    resolveIndex count i ≠ 0 ↔ 1 ≤ i.toNat ∧ i.toNat ≤ count := by
  unfold resolveIndex
  split
  · rename_i h
    refine ⟨fun _ => h, fun _ hz => ?_⟩
    rw [hz] at h
    exact absurd h.1 (by decide)
  · rename_i h
    exact ⟨fun hz => absurd rfl hz, fun h' => absurd h' h⟩

/-- The bits of a routing mask: those of the control word, for the channels that exist (R66). -/
theorem routeMask_getLsbD (b : Build) (w : Word16) (c : Nat) :
    (routeMask b w).getLsbD c = (decide (c < channelCount b) && w.getLsbD c) := by
  have h15 := (channelCount_bounds b).2
  simp only [routeMask, BitVec.getLsbD_and, BitVec.getLsbD_extractLsb', BitVec.getLsbD_ofNat,
    Nat.testBit_two_pow_sub_one]
  by_cases h : c < channelCount b
  · have : c < 15 := by omega
    simp [h, this]
  · simp [h]

/-- A routing mask names only channels that exist (R34). -/
theorem routeMask_lt (b : Build) (w : Word16) : (routeMask b w).toNat < 2 ^ channelCount b := by
  have hpos : 0 < 2 ^ channelCount b := Nat.two_pow_pos _
  have hle : (routeMask b w).toNat ≤ (BitVec.ofNat 15 (2 ^ channelCount b - 1)).toNat := by
    rw [routeMask, BitVec.toNat_and]
    exact Nat.and_le_right
  have hmod : (BitVec.ofNat 15 (2 ^ channelCount b - 1)).toNat ≤ 2 ^ channelCount b - 1 := by
    rw [BitVec.toNat_ofNat]
    exact Nat.mod_le _ _
  omega

/-- A command for a channel that does not exist changes nothing (R103, R121). -/
theorem onChannel_missing (s : State) (ch : Chan) (f : State → State) (h : channelCount s.build ≤ ch.toNat) :
    s.onChannel ch f = s := by
  have : ¬ ch.toNat < channelCount s.build := by omega
  simp [State.onChannel, State.hasChannel, this]

/-- A command for a channel that exists acts on it (R121). -/
theorem onChannel_existing (s : State) (ch : Chan) (f : State → State) (h : ch.toNat < channelCount s.build) :
    s.onChannel ch f = f s := by
  simp [State.onChannel, State.hasChannel, h]

/-- Nothing changes where nothing is done. -/
theorem oneVoiceFrame_refl (c : Nat) (s : State) : OneVoiceFrame c s s :=
  ⟨⟨rfl, fun _ _ => rfl⟩, ⟨rfl, rfl, rfl, rfl, rfl⟩, ⟨rfl, rfl, rfl, rfl, rfl, rfl⟩, rfl, fun _ => ⟨rfl, rfl⟩⟩

/-- An update of channel `c` has the frame of channel `c`. -/
theorem oneVoiceFrame_modVoice (c : Nat) (s : State) (f : Voice → Voice) : OneVoiceFrame c s (s.modVoice c f) :=
  ⟨⟨by simp, fun d hd => by simp [hd]⟩, ⟨rfl, rfl, rfl, rfl, rfl⟩, ⟨rfl, rfl, rfl, rfl, rfl, rfl⟩, rfl,
    fun _ => ⟨rfl, rfl⟩⟩

/-- A command that updates its channel, if that exists, has the frame of that channel. -/
theorem oneVoiceFrame_onChannel (ch : Chan) (s : State) (f : State → Voice → Voice) :
    OneVoiceFrame ch.toNat s (s.onChannel ch fun u => u.modVoice ch.toNat (f u)) := by
  unfold State.onChannel
  split
  · exact oneVoiceFrame_modVoice _ _ _
  · exact oneVoiceFrame_refl _ _

end Sys2Proof.Machine
end

