-- ==== Sys2Proof/Laws/PerInstr.lean ====
section
/-! SUPPORT. Statements about every instruction as syntax, one lemma per constructor. -/

namespace Sys2Proof.Laws.EncodeLength

/-- An instruction's word is as long as its source's words (R90: every item has a fixed length). -/
def Statement (i : Instr) : Prop := (encode i).length = i.source.byteLength

theorem wset (value : BitVec 5) (wflags : BitVec 7) : Statement (.wset value wflags) := encode_length _

theorem winc (value : BitVec 5) (wflags : BitVec 7) : Statement (.winc value wflags) := encode_length _

theorem wdec (value : BitVec 5) (wflags : BitVec 7) : Statement (.wdec value wflags) := encode_length _

theorem wrsv (value : BitVec 5) (wflags : BitVec 7) : Statement (.wrsv value wflags) := encode_length _

theorem fset (value : BitVec 5) (res : BitVec 4) (ftype : BitVec 3) : Statement (.fset value res ftype) := encode_length _

theorem finc (value : BitVec 5) (res : BitVec 4) (ftype : BitVec 3) : Statement (.finc value res ftype) := encode_length _

theorem fdec (value : BitVec 5) (res : BitVec 4) (ftype : BitVec 3) : Statement (.fdec value res ftype) := encode_length _

theorem frsv (value : BitVec 5) (res : BitVec 4) (ftype : BitVec 3) : Statement (.frsv value res ftype) := encode_length _

theorem erel (value : BitVec 8) : Statement (.erel value) := encode_length _

theorem eabs (value : BitVec 8) : Statement (.eabs value) := encode_length _

theorem edet (value : BitVec 8) : Statement (.edet value) := encode_length _

theorem ersv (value : BitVec 8) : Statement (.ersv value) := encode_length _

theorem noteOn (ch : Chan) (note ins fx : BitVec 8) : Statement (.noteOn ch note ins fx) := encode_length _

theorem noteOff (ch : Chan) : Statement (.noteOff ch) := encode_length _

theorem adopt (ch : Chan) (ins fx : BitVec 8) : Statement (.adopt ch ins fx) := encode_length _

theorem silence : Statement (.silence) := encode_length _

theorem mute (ch : Chan) (b : Bool) : Statement (.mute ch b) := encode_length _

theorem run (b : Bool) : Statement (.run b) := encode_length _

theorem crsv0 : Statement (.crsv0) := encode_length _

theorem crsv5 : Statement (.crsv5) := encode_length _

theorem crsv6 : Statement (.crsv6) := encode_length _

theorem crsv7 : Statement (.crsv7) := encode_length _

theorem crsv8 : Statement (.crsv8) := encode_length _

theorem crsv9 : Statement (.crsv9) := encode_length _

theorem crsv10 : Statement (.crsv10) := encode_length _

theorem crsv11 : Statement (.crsv11) := encode_length _

theorem crsv12 : Statement (.crsv12) := encode_length _

theorem crsv13 : Statement (.crsv13) := encode_length _

theorem crsv14 : Statement (.crsv14) := encode_length _

theorem crsv15 : Statement (.crsv15) := encode_length _

theorem pmwrite (space : Space) (addr : BitVec 24) (data : Word16) : Statement (.pmwrite space addr data) := encode_length _

theorem tick : Statement (.tick) := encode_length _

end Sys2Proof.Laws.EncodeLength
end

