-- ==== Sys2Proof/Laws/Step.lean ====
section
/-! SUPPORT. What exec and step can answer: always a next state (R330), and which. -/

namespace Sys2Proof.Machine

/-- The next state of each instruction: exec answers it and nothing else (R330). -/
def nextState (i : Instr) (s : State) : State :=
  match i with
  | .noteOn ch note ins fx => noteOnCmd ch note ins fx s
  | .noteOff ch => noteOffCmd ch s
  | .adopt ch ins fx => adoptCmd ch ins fx s
  | .silence => silenceCmd s
  | .mute ch b => muteCmd ch b s
  | .run b => runCmd b s
  | .crsv0 | .crsv5 | .crsv6 | .crsv7 | .crsv8 | .crsv9 | .crsv10 | .crsv11 | .crsv12 | .crsv13 | .crsv14
  | .crsv15 => s
  | .pmwrite space addr data => pmwriteCmd space addr data s
  | .tick => tickCmd s
  | .wset _ _ | .winc _ _ | .wdec _ _ | .wrsv _ _ => runRow i s
  | .fset _ _ _ | .finc _ _ _ | .fdec _ _ _ | .frsv _ _ _ => runRow i s
  | .erel _ | .eabs _ | .edet _ | .ersv _ => runRow i s

/-- exec answers the next state of the instruction. -/
theorem exec_eq_next (i : Instr) (s : State) : exec i s = .next (nextState i s) := by
  cases i <;> rfl

/-- On a program row, exec and the interpreters' runRow agree (R193 step 3). -/
theorem exec_row_eq_runRow (i : Instr) (s : State)
    (h : i.source = .wave ∨ i.source = .filter ∨ i.source = .effect) : exec i s = .next (runRow i s) := by
  cases i <;> first | rfl | simp [Instr.source] at h

/-- With nothing waiting the machine stands still. -/
theorem step_empty {s : State} (h : s.pending = []) : step s = .next s := by
  simp [step, h]

/-- The oldest waiting event of the block is decoded and executed. -/
theorem step_instr {s : State} {e : Event} {rest : List Event} {i : Instr} (h : s.pending = e :: rest)
    (hi : eventInstr e = some i) : step s = exec i (s.withPending rest) := by
  simp [step, h, hi]

/-- The oldest waiting event of the host agent is its own operation. -/
theorem step_host {s : State} {e : Event} {rest : List Event} (h : s.pending = e :: rest)
    (hi : eventInstr e = none) : step s = .next (hostEvent e (s.withPending rest)) := by
  simp [step, h, hi]

/-- All a step can do: stand still, execute the block's oldest event, or do the host agent's. -/
theorem step_cases {s t : State} (h : step s = .next t) :
    (s.pending = [] ∧ t = s)
    ∨ (∃ e rest i, s.pending = e :: rest ∧ eventInstr e = some i ∧ t = nextState i (s.withPending rest))
    ∨ (∃ e rest, s.pending = e :: rest ∧ eventInstr e = none ∧ t = hostEvent e (s.withPending rest)) := by
  cases hp : s.pending with
  | nil =>
    rw [step_empty hp] at h
    cases h
    exact .inl ⟨rfl, rfl⟩
  | cons e rest =>
    cases hi : eventInstr e with
    | none =>
      rw [step_host hp hi] at h
      cases h
      exact .inr (.inr ⟨e, rest, rfl, hi, rfl⟩)
    | some i =>
      rw [step_instr hp hi, exec_eq_next] at h
      cases h
      exact .inr (.inl ⟨e, rest, i, rfl, hi, rfl⟩)

end Sys2Proof.Machine
end

