-- ==== Sys2Proof/Laws/Transport.lean ====
section
/-! SUPPORT. What the host agent's events can do. No instruction reads or writes the waiting events or the host agent
(`nextState_withHost`), so a chain of events is the composition of its parts (`Applied`). -/

namespace Sys2Proof.Machine

/-! The block and the host agent do not see each other. -/

/-- The state with other waiting events and another host agent. -/
def State.withHost (s : State) (es : List Event) (t : Transport) : State := { s with pending := es, transport := t }

theorem runRow_withHost (i : Instr) (s : State) (es : List Event) (t : Transport) :
    runRow i (s.withHost es t) = (runRow i s).withHost es t := by
  cases i <;> rfl

theorem waveStep_withHost (s : State) (es : List Event) (t : Transport) :
    waveStep (s.withHost es t) = (waveStep s).withHost es t := by
  unfold waveStep
  rw [show (s.withHost es t).wavePlan = s.wavePlan from rfl]
  cases s.wavePlan with
  | none => rfl
  | some pn => exact congrArg (State.modActive · _) (runRow_withHost _ s es t)

theorem filterStep_withHost (s : State) (es : List Event) (t : Transport) :
    filterStep (s.withHost es t) = (filterStep s).withHost es t := by
  unfold filterStep
  rw [show (s.withHost es t).filterPlan = s.filterPlan from rfl]
  cases s.filterPlan with
  | none => rfl
  | some pn => exact congrArg (State.modActive · _) (runRow_withHost _ s es t)

theorem effectStep_withHost (s : State) (es : List Event) (t : Transport) :
    effectStep (s.withHost es t) = (effectStep s).withHost es t := by
  unfold effectStep
  rw [show (s.withHost es t).effectPlan = s.effectPlan from rfl]
  cases s.effectPlan with
  | none => rfl
  | some pn => exact congrArg (State.modActive · _) (runRow_withHost _ (s.withPfRaw s.basePitch) es t)

theorem interpretChannel_withHost (s : State) (c : Nat) (es : List Event) (t : Transport) :
    interpretChannel (s.withHost es t) c = (interpretChannel s c).withHost es t := by
  unfold interpretChannel
  rw [show (s.withHost es t).withActive c = (s.withActive c).withHost es t from rfl, waveStep_withHost,
    filterStep_withHost, effectStep_withHost]
  rfl

theorem interpretBelow_withHost (s : State) (es : List Event) (t : Transport) :
    ∀ n, interpretBelow (s.withHost es t) n = (interpretBelow s n).withHost es t
  | 0 => rfl
  | n + 1 => by rw [interpretBelow, interpretBelow_withHost s es t n, interpretChannel_withHost]; rfl

theorem tickCmd_withHost (s : State) (es : List Event) (t : Transport) :
    tickCmd (s.withHost es t) = (tickCmd s).withHost es t := by
  have hi : interpretAll (s.withHost es t) = (interpretAll s).withHost es t := by
    unfold interpretAll
    rw [show (s.withHost es t).build = s.build from rfl, interpretBelow_withHost]
    rfl
  unfold tickCmd
  rw [show (s.withHost es t).run = s.run from rfl]
  split
  · unfold tickRunning
    rw [hi]
    rfl
  · rfl

theorem onChannel_withHost (s : State) (ch : Chan) (f : State → State) (es : List Event) (t : Transport)
    (h : f (s.withHost es t) = (f s).withHost es t) :
    (s.withHost es t).onChannel ch f = (s.onChannel ch f).withHost es t := by
  unfold State.onChannel
  rw [show (s.withHost es t).hasChannel ch = s.hasChannel ch from rfl]
  split
  · exact h
  · rfl

/-- No instruction reads or writes the waiting events or the host agent (R5, R38). -/
theorem nextState_withHost (i : Instr) (s : State) (es : List Event) (t : Transport) :
    nextState i (s.withHost es t) = (nextState i s).withHost es t := by
  cases i with
  | tick => exact tickCmd_withHost s es t
  | noteOn ch _ _ _ | noteOff ch | adopt ch _ _ | mute ch _ =>
    simp only [nextState, noteOnCmd, noteOffCmd, adoptCmd, muteCmd]
    apply onChannel_withHost
    rfl
  | pmwrite space addr data =>
    cases space <;> simp only [nextState, pmwriteCmd, show (s.withHost es t).build = s.build from rfl] <;> split <;> rfl
  | wset _ _ | winc _ _ | wdec _ _ | wrsv _ _ => rfl
  | fset _ _ _ | finc _ _ _ | fdec _ _ _ | frsv _ _ _ => rfl
  | erel _ | eabs _ | edet _ | ersv _ => rfl
  | silence | run _ => rfl
  | crsv0 | crsv5 | crsv6 | crsv7 | crsv8 | crsv9 | crsv10 | crsv11 | crsv12 | crsv13 | crsv14 | crsv15 => rfl

theorem nextState_withPending (i : Instr) (s : State) (es : List Event) :
    nextState i (s.withPending es) = (nextState i s).withPending es := by
  have h := nextState_withHost i s es s.transport
  have h0 := nextState_withHost i s s.pending s.transport
  rw [show s.withHost es s.transport = s.withPending es from rfl] at h
  rw [show s.withHost s.pending s.transport = s from rfl] at h0
  rw [h, h0]
  rfl

@[simp] theorem nextState_transport (i : Instr) (s : State) : (nextState i s).transport = s.transport := by
  have h := congrArg State.transport (nextState_withHost i s s.pending s.transport)
  exact h

/-! Chains of events. -/

/-- A run of `j` steps and then of `k` is a run of `j + k`. -/
theorem run_add {s u : State} {j : Nat} (k : Nat) (h : Host.Core.run Sys2Proof.core j s = .next u) :
    Host.Core.run Sys2Proof.core (j + k) s = Host.Core.run Sys2Proof.core k u := by
  induction j generalizing s with
  | zero => cases h; rw [Nat.zero_add]
  | succ j ih =>
    rw [Nat.succ_add]
    simp only [Host.Core.run] at h ⊢
    split at h
    · exact ih h
    · cases h
    · cases h

/-- A run takes its first step. -/
theorem run_succ {s u : State} (k : Nat) (h : step s = .next u) :
    Host.Core.run Sys2Proof.core (k + 1) s = Host.Core.run Sys2Proof.core k u := by
  have h' : Sys2Proof.core.step s = .next u := h
  simp only [Host.Core.run]
  rw [h']

theorem applied_nil (s : State) : Applied [] s s := fun _ => ⟨0, rfl⟩

theorem applied_append {es fs : List Event} {s u t : State} (h : Applied es s u) (g : Applied fs u t) :
    Applied (es ++ fs) s t := by
  intro rest
  obtain ⟨j, hj⟩ := h (fs ++ rest)
  obtain ⟨k, hk⟩ := g rest
  exact ⟨j + k, by rw [List.append_assoc, run_add k hj, hk]⟩

theorem applied_cons {e : Event} {es : List Event} {s u t : State} (h : Presented e s u) (g : Applied es u t) :
    Applied (e :: es) s t :=
  applied_append h g

/-- An event of the block is applied by the next state of its instruction. -/
theorem presented_instr {e : Event} {i : Instr} (s : State) (h : eventInstr e = some i) :
    Presented e s (nextState i s) := by
  intro rest
  have hs : step (s.withPending (e :: rest)) = .next ((nextState i s).withPending rest) := by
    rw [step_instr rfl h, exec_eq_next, ← nextState_withPending]
    rfl
  exact ⟨1, run_succ 0 hs⟩

/-- An event of the host agent that does its own part and issues `es` is applied when they are. -/
theorem presented_host {e : Event} {es : List Event} {s u t : State} (h : eventInstr e = none)
    (hu : ∀ rest, hostEvent e (s.withPending rest) = u.withPending (es ++ rest)) (g : Applied es u t) :
    Presented e s t := by
  intro rest
  obtain ⟨k, hk⟩ := g rest
  have hs : step (s.withPending (e :: rest)) = .next (u.withPending (es ++ rest)) := by
    rw [step_host rfl h, ← hu]
    rfl
  exact ⟨k + 1, (run_succ k hs).trans hk⟩

/-- An event of the host agent that issues nothing is applied at once. -/
theorem presented_host_alone {e : Event} {s t : State} (h : eventInstr e = none)
    (ht : ∀ rest, hostEvent e (s.withPending rest) = t.withPending rest) : Presented e s t :=
  presented_host h ht (applied_nil t)

/-- `n + 1` samples are one pass and `n` samples more (R309). -/
theorem presented_fillBuffer_succ {n : Nat} {s u t : State} (h : Presented .sample s u)
    (g : Presented (.fillBuffer n) u t) : Presented (.fillBuffer (n + 1)) s t :=
  presented_host (es := [.sample, .fillBuffer n]) rfl (fun _ => rfl) (applied_cons h g)

/-- No samples are no pass. -/
theorem presented_fillBuffer_zero (s : State) : Presented (.fillBuffer 0) s s :=
  presented_host_alone rfl fun _ => rfl

end Sys2Proof.Machine
end

