-- ==== Sys2Proof/Laws/VoiceEngine.lean ====
section
/-! SUPPORT. What one voice's datapath can do: the phase sum as a number, the registers an interpreter, the oscillator and
the envelope leave alone, and the bounds of an envelope step. -/

namespace Sys2Proof.Machine

/-- The 25-bit sum is the sum of the numbers (R151). -/
theorem phaseSum_toNat (v : Voice) : (phaseSum v).toNat = v.phase.toNat + v.freq.toNat := by
  have hp := v.phase.isLt
  have hf := v.freq.isLt
  simp only [phaseSum, BitVec.toNat_add, BitVec.truncate_eq_setWidth, BitVec.toNat_setWidth]
  omega

/-- The carry is the sum's reaching 2^24 (R151). -/
theorem phaseWrap_eq (v : Voice) : phaseWrap v = decide (2 ^ 24 ≤ v.phase.toNat + v.freq.toNat) := by
  have hp := v.phase.isLt
  have hf := v.freq.isLt
  rw [phaseWrap, BitVec.getLsbD, phaseSum_toNat, Nat.testBit_eq_decide_div_mod_eq]
  by_cases h : 2 ^ 24 ≤ v.phase.toNat + v.freq.toNat
  · simp only [h, decide_true, decide_eq_true_eq]
    omega
  · simp only [h, decide_false, decide_eq_false_iff_not]
    omega

/-- A noise register that is not 0 steps to one that is not 0 (R153). -/
theorem lfsrStep_ne_zero (l : BitVec 23) (h : l ≠ 0) : lfsrStep l ≠ 0 := by
  intro hz
  apply h
  apply BitVec.eq_of_getLsbD_eq
  have bit : ∀ i, (lfsrStep l).getLsbD i = false := fun i => by rw [hz]; simp
  have low : ∀ i, i < 22 → l.getLsbD i = false := by
    intro i hi
    have := bit (i + 1)
    rw [lfsrStep, BitVec.getLsbD_append] at this
    simpa [hi] using this
  have top : l.getLsbD 22 = false := by
    have := bit 0
    rw [lfsrStep, BitVec.getLsbD_append, low 17 (by omega)] at this
    simpa using this
  intro i hi
  by_cases h22 : i = 22
  · subst h22
    simpa using top
  · simpa using low i (by omega)

/-- The registers the envelope leaves alone (R161 to R168). -/
theorem envelope_frame (b : Build) (adsr : Word16) (v : Voice) :
    envelope b adsr v = { v with envStage := (envelope b adsr v).envStage, envAcc := (envelope b adsr v).envAcc } := rfl

/-- The registers the oscillator leaves alone (R151 to R153). -/
theorem oscillate_frame (w : Bool) (v : Voice) :
    oscillate w v = { v with phase := (oscillate w v).phase, lfsr := (oscillate w v).lfsr } := rfl

/-- The registers the interpreters leave alone: what commands, the oscillator and the envelope own (R41, R336). -/
theorem interpVoice_frame (s : State) (v : Voice) :
    (interpVoice s v).note = v.note ∧ (interpVoice s v).curIns = v.curIns ∧ (interpVoice s v).curFx = v.curFx
      ∧ (interpVoice s v).noteGate = v.noteGate ∧ (interpVoice s v).phase = v.phase
      ∧ (interpVoice s v).lfsr = v.lfsr ∧ (interpVoice s v).envStage = v.envStage
      ∧ (interpVoice s v).envAcc = v.envAcc ∧ (interpVoice s v).mute = v.mute := by
  unfold interpVoice effectVoice filterVoice waveVoice
  cases wavePlanOf s v <;> dsimp only <;> (repeat' split) <;> simp [waveRowVoice]

/-- The sustain target fits the accumulator (R161). -/
theorem sustainTarget_lt (n : BitVec 4) : sustainTarget n < 2 ^ 24 := by
  have := n.isLt
  simp only [sustainTarget]
  omega

/-- An envelope step keeps the accumulator in its range (R31, R172). -/
theorem stageStep_lt (b : Build) (adsr : Word16) (st : Stage) (acc : Nat) (h : acc < 2 ^ 24) :
    (stageStep b adsr st acc).2 < 2 ^ 24 := by
  cases st with
  | attack =>
    simp only [stageStep, attackStep, envMax]
    by_cases hc : 0xFFFFFF ≤ acc + attackRate b (attackNibble adsr) <;> simp only [hc, if_true, if_false] <;> omega
  | decay =>
    have := sustainTarget_lt (sustainNibble adsr)
    simp only [stageStep, decayStep]
    split <;> omega
  | sustain => exact h
  | release =>
    simp only [stageStep, releaseStep]
    omega
  | idle => exact h

/-- The accumulator after a tick, as a number. -/
theorem envelope_envAcc (b : Build) (adsr : Word16) (v : Voice) :
    (envelope b adsr v).envAcc.toNat =
      (stageStep b adsr (gateStage (effectiveGate v) v.envStage) v.envAcc.toNat).2 := by
  simp only [envelope, BitVec.toNat_ofNat]
  exact Nat.mod_eq_of_lt (stageStep_lt _ _ _ _ v.envAcc.isLt)

/-- A voice that the envelope leaves IDLE has level 0, if it was so before (R33). -/
theorem envelope_idle (b : Build) (adsr : Word16) (v : Voice) (h : v.envStage = .idle → v.envAcc = 0) :
    (envelope b adsr v).envStage = .idle → (envelope b adsr v).envAcc = 0 := by
  intro hi
  apply BitVec.eq_of_toNat_eq
  rw [envelope_envAcc]
  simp only [envelope] at hi
  cases hg : gateStage (effectiveGate v) v.envStage with
  | idle =>
    have hv : v.envStage = .idle := by
      revert hg
      cases effectiveGate v <;> cases v.envStage <;> simp [gateStage]
    simp [stageStep, h hv]
  | attack =>
    rw [hg] at hi
    simp only [stageStep, attackStep] at hi
    split at hi <;> simp at hi
  | decay =>
    rw [hg] at hi
    simp only [stageStep, decayStep] at hi
    split at hi <;> split at hi <;> simp at hi
  | sustain =>
    rw [hg] at hi
    simp [stageStep] at hi
  | release =>
    rw [hg] at hi
    simp only [stageStep, releaseStep] at hi ⊢
    split at hi
    · simp_all
    · simp at hi

/-- The sum over the channels below `n`, as a sum over a list. -/
theorem sumBelow_eq_sum (f : Nat → Int) (n : Nat) : ((List.range n).map f).sum = sumBelow f n := by
  induction n with
  | zero => rfl
  | succ n ih => simp [List.range_succ, ih, sumBelow]

/-- The sum depends on the channels below `n` alone. -/
theorem sumBelow_congr {f g : Nat → Int} {n : Nat} (h : ∀ c, c < n → f c = g c) : sumBelow f n = sumBelow g n := by
  induction n with
  | zero => rfl
  | succ n ih => rw [sumBelow, sumBelow, ih fun c hc => h c (by omega), h n (by omega)]

/-- A sum of `n` terms, each within `m` (R270). -/
theorem sumBelow_abs_le {f : Nat → Int} {m : Int} (n : Nat) (h : ∀ c, -m ≤ f c ∧ f c ≤ m) :
    -(m * (n : Int)) ≤ sumBelow f n ∧ sumBelow f n ≤ m * (n : Int) := by
  induction n with
  | zero => simp [sumBelow]
  | succ n ih =>
    have := h n
    simp only [sumBelow, Nat.cast_succ, Int.mul_add, Int.mul_one]
    omega

/-- A sixteen-bit saturated value is stored as itself (R281, R282). -/
theorem sat16_toInt (x : Int) : (BitVec.ofInt 16 (sat 16 x)).toInt = max (-32768) (min 32767 x) := by
  have : sat 16 x = max (-32768) (min 32767 x) := by
    simp only [sat, clampInt, signedMin, signedMax]
    norm_num
  rw [this, BitVec.toInt_ofInt, Int.bmod_def]
  norm_num
  omega

end Sys2Proof.Machine
end

