-- ==== Sys2Proof/Tests/Slice0.lean ====
section
/-! SUPPORT. Tests: well-formedness, the decoding of words written out from the spec's encodings, one step of every
instruction, and for every statement with hypotheses a state and operands that meet them. Expected values are the spec's
own: the examples of the rules named, or `95_test_vectors.md`. -/

namespace Sys2Proof.Tests

open Sys2Proof.Machine

set_option Elab.async false

/-! Well-formedness: the one check there is (R98). -/

theorem test_noteOn_with_note_0_is_ill_formed : (Instr.noteOn 0 0 1 1).wellFormed = false := by decide
theorem test_noteOn_with_note_255_is_ill_formed : (Instr.noteOn 0 255 1 1).wellFormed = false := by decide
theorem test_noteOn_at_its_bounds_is_well_formed :
    (Instr.noteOn 15 1 255 255).wellFormed = true ∧ (Instr.noteOn 0 254 0 0).wellFormed = true := by decide

/-! Decoding: the words of V-ENC and R109, and for the codes without one there a word after R91 to R99. -/

theorem test_decode_wset : decodeWave 0b0000010010010000 = .wset 16 0b0001001 := by decide
theorem test_decode_winc : decodeWave 0b0000010010100001 = .winc 1 0b0001001 := by decide
theorem test_decode_wdec : decodeWave 0b0001001001000011 = .wdec 3 0b0100100 := by decide
theorem test_decode_wrsv : decodeWave 0b0000000011111111 = .wrsv 31 0b0000001 := by decide
theorem test_decode_fset : decodeFilter 0b0001100000001010 = .fset 10 8 0b001 := by decide
theorem test_decode_finc : decodeFilter 0b0110111100100010 = .finc 2 15 0b110 := by decide
theorem test_decode_fdec : decodeFilter 0b0001000001000011 = .fdec 3 0 0b001 := by decide
theorem test_decode_frsv : decodeFilter 0b0010010101100000 = .frsv 0 5 0b010 := by decide
theorem test_decode_erel : decodeEffect 0b0000000000111100 = .erel 0x3C := by decide
theorem test_decode_eabs : decodeEffect 0b0000000100111100 = .eabs 60 := by decide
theorem test_decode_edet : decodeEffect 0b0000001000101101 = .edet 0x2D := by decide
theorem test_decode_ersv : decodeEffect 0b0000001111111111 = .ersv 255 := by decide
theorem test_decode_noteOn : decodeCommand 0x11030231 = .noteOn 1 49 2 3 := by decide
theorem test_decode_noteOff : decodeCommand 0x100000FF = .noteOff 0 := by decide
theorem test_decode_adopt : decodeCommand 0x13000700 = .adopt 3 7 0 := by decide
theorem test_decode_silence : decodeCommand 0x20000000 = .silence := by decide
theorem test_decode_mute : decodeCommand 0x33000001 = .mute 3 true := by decide
theorem test_decode_run : decodeCommand 0x40000001 = .run true := by decide
theorem test_decode_pmwrite_imem : decodePmw 0x0000009604A4 = .pmwrite .imem 150 0x04A4 := by decide
theorem test_decode_pmwrite_fmem : decodePmw 0x010000240034 = .pmwrite .fmem 36 0x0034 := by decide
theorem test_decode_tick : decode .strobe [] = .ok .tick := by decide
theorem test_decode_reserved_commands :
    decodeCommand 0x00000000 = .crsv0 ∧ decodeCommand 0x50000000 = .crsv5 ∧ decodeCommand 0x6FFFFFFF = .crsv6
      ∧ decodeCommand 0x70000000 = .crsv7 ∧ decodeCommand 0x80000001 = .crsv8 ∧ decodeCommand 0x90000000 = .crsv9
      ∧ decodeCommand 0xA0000000 = .crsv10 ∧ decodeCommand 0xB0000000 = .crsv11
      ∧ decodeCommand 0xC0000000 = .crsv12 ∧ decodeCommand 0xD0000000 = .crsv13
      ∧ decodeCommand 0xE0000000 = .crsv14 ∧ decodeCommand 0xFFFFFFFF = .crsv15 := by decide

/-- V-ENC: reserved bits 15:14 are ignored. -/
theorem test_decode_ignores_reserved_bits : decodeWave 0xC490 = decodeWave 0x0490 := by decide
/-- R70: the low byte of a word comes first. -/
theorem test_decode_bytes_low_first : decode .wave [0x90, 0x04] = .ok (.wset 16 0b0001001) := by decide
theorem test_decode_refuses_another_length : decode .wave [0x90] = .error (.wrongLength 2 1) := by decide
theorem test_table_word_of_each_width :
    decodeTableWord 16 0x04A1 = some (.winc 1 0b0001001) ∧ decodeTableWord 32 0x40000001 = some (.run true)
      ∧ decodeTableWord 48 0x000000040490 = some (.pmwrite .imem 4 0x0490) ∧ decodeTableWord 0 0 = some .tick
      ∧ decodeTableWord 8 0 = none := by decide
/-- R106, R108: the notation assembles to the words of V-ENC. -/
theorem test_assemble :
    encodeNat (.wset 16 (flagWords true false false true false false false)) = 0x0490
      ∧ encodeNat (.finc 2 15 (typeWords false true true)) = 0x6F22 ∧ encodeNat (.edet (offsetValue (-3))) = 0x022D
      ∧ asmNoteOff 0 = .noteOff 0 ∧ encodeNat asmEnone = 0x0030 ∧ headerWord 3 1 = 0x0103 := by decide

/-! Small states. -/

/-- What an instruction leaves, seen through `f`. -/
def after {α : Type} (i : Instr) (s : State) (f : State → α) : Option α := (nextOf (exec i s)).map f

/-- IMEM of REFCFG with Instrument 1 (ADSR 2, 4, 10, 6; wave rows of R217, length 3, loop 1; route 0b0011; one filter
row, FSET 10 res=8 low) and the hard-restart bit of Instrument 6 (R66). -/
def imem1 : Memory :=
  [(0, 0x24A6), (1, 0x0103), (2, 0x0003), (3, 0x0001), (4, 0x0490), (5, 0x04A4), (6, 0x04A4), (20, 0x180A),
    (182, 0x8000)].foldl (fun m p => writeWord m p.1 p.2) []

/-- FMEM of REFCFG with Effect 1: one row, EREL +12. -/
def fmem1 : Memory := [(0, 0x0001), (1, 0x003C)].foldl (fun m p => writeWord m p.1 p.2) []

/-- A running machine with those memories and a Song of two blocks. -/
def ready : State :=
  { State.resetOf .reference imem1 fmem1 { songReset with tempo := 3, swing := 1, tableLength := 2 } with run := true }

/-- Channel 0 armed with Instrument 1 and Effect 1 on note 49. -/
def armed : State :=
  ready.modVoice 0 fun v => { v with curIns := 1, curFx := 1, note := 49, noteGate := true }

/-- The voice of V-CMD 2 on channel 0, and of V-CMD 7 on channel 1. -/
def sounding : State :=
  (ready.modVoice 0 fun v =>
    { v with
      curIns := 5, curFx := 3, envStage := .sustain, envAcc := 0x880000, phase := 0x123456, insPos := 2, fltPos := 1
      fxPos := 4, noteGate := true }).modVoice 1 fun v => { v with curIns := 5, insPos := 2, fltPos := 1 }

/-- A machine whose active channel 0 has a pulse width. -/
def withPw (p : BitVec 5) : State := ready.modVoice 0 fun v => { v with pw := p }

/-- A machine whose active channel 0 plays Instrument 1, with a cutoff. -/
def withCutoff (k : BitVec 5) : State := { armed with fCutoff := k }

/-! Wave rows: the examples of R212 to R215. -/

theorem test_wset : after (decodeWave 0x0490) (withPw 7) (fun t => ((t.voice 0).pw, (t.voice 0).flags))
    = some (16, 0b0001001) := by decide
theorem test_winc_clamps : after (decodeWave 0x04A1) (withPw 31) (fun t => ((t.voice 0).pw, (t.voice 0).flags))
    = some (31, 0b0001001) := by decide
theorem test_winc_adds : after (decodeWave 0x04A1) (withPw 29) (fun t => (t.voice 0).pw) = some 30 := by decide
theorem test_wdec_clamps : after (decodeWave 0x1243) (withPw 2) (fun t => ((t.voice 0).pw, (t.voice 0).flags))
    = some (0, 0b0100100) := by decide
theorem test_wdec_subtracts : after (decodeWave 0x1243) (withPw 31) (fun t => (t.voice 0).pw) = some 28 := by decide
theorem test_wrsv : after (decodeWave 0x00FF) (withPw 7) (fun t => ((t.voice 0).pw, (t.voice 0).flags))
    = some (7, 0b0000001) := by decide

/-! Filter rows: the examples of R231 to R234, under an Instrument with route 0b0011. -/

theorem test_fset : after (decodeFilter 0x180A) (withCutoff 31) (fun t => (t.fCutoff, t.fRes, t.fType, t.fRoute))
    = some (10, 8, 0b001, 0b0011) := by decide
theorem test_finc_clamps : after (decodeFilter 0x6F22) (withCutoff 30)
    (fun t => (t.fCutoff, t.fRes, t.fType, t.fRoute)) = some (31, 15, 0b110, 0b0011) := by decide
theorem test_fdec_subtracts : after (decodeFilter 0x1043) (withCutoff 10)
    (fun t => (t.fCutoff, t.fRes, t.fType, t.fRoute)) = some (7, 0, 0b001, 0b0011) := by decide
theorem test_fdec_clamps : after (.fdec 31 0 0) (withCutoff 3) (fun t => t.fCutoff) = some 0 := by decide
theorem test_frsv : after (decodeFilter 0x2560) (withCutoff 12) (fun t => (t.fCutoff, t.fRes, t.fType, t.fRoute))
    = some (12, 5, 0b010, 0b0011) := by decide

/-! Effect rows and the pitch path: the examples of R251 to R256. -/

theorem test_erel : after (decodeEffect 0x003C) armed (fun t => (t.pfRaw, ((pitchPath t).voice 0).freq))
    = some (976, 262144) := by decide +kernel
theorem test_eabs : after (decodeEffect 0x013C) armed (fun t => (t.pfRaw, ((pitchPath t).voice 0).freq))
    = some (960, 247431) := by decide +kernel
theorem test_edet : after (decodeEffect 0x022D) armed (fun t => (t.pfRaw, ((pitchPath t).voice 0).freq))
    = some (781, 129692) := by decide +kernel
theorem test_ersv : after (decodeEffect 0x03FF) armed (fun t => (t.pfRaw, ((pitchPath t).voice 0).freq))
    = some (784, 131072) := by decide +kernel
theorem test_pitch_clamps : (pitchFreq .reference 90 1632, pitchFreq .reference 2 (-160), pitchFreq .reference 0 784)
    = (1979448, 8192, 0) := by decide +kernel

/-! Commands: the example of R122 and the vectors of V-CMD. -/

theorem test_noteOn_restarts : after (.noteOn 0 61 6 0) sounding (fun t => t.voice 0) = some { sounding.voice 0 with
    curIns := 6, insPos := 0, fltPos := 0, fxPos := 0, note := 61, phase := 0, envAcc := 0, envStage := .idle } := by
  decide
theorem test_noteOn_out_of_range_keeps : after (.noteOn 0 61 40 77) sounding (fun t => t.voice 0) =
    some { sounding.voice 0 with insPos := 0, fltPos := 0, fxPos := 0, note := 61 } := by decide
theorem test_noteOff : after (.noteOff 0) sounding (fun t =>
      let v := t.voice 0
      (v.noteGate, v.curIns, v.curFx, v.phase, v.envStage)) = some (false, 5, 3, 0x123456, .sustain) := by decide
theorem test_adopt_held_changes_nothing : after (.adopt 0 6 7) sounding (fun t => t.voice 0)
    = some (sounding.voice 0) := by decide
theorem test_adopt_effect : after (.adopt 1 6 7) sounding (fun t =>
      let v := t.voice 1
      (v.curIns, v.curFx, v.insPos, v.fltPos)) = some (5, 7, 2, 1) := by decide
theorem test_silence : after .silence (sounding.modVoice 2 fun v => { v with mute := true }) (fun t =>
      (t.voice 0 == voiceReset, (t.voice 2).mute, t.run, t.imem == imem1)) = some (true, true, true, true) := by decide
theorem test_mute : after (.mute 3 true) ready (fun t => (t.voices.map Voice.mute, isChannelActive t 3))
    = some ([false, false, false, true], false) := by decide
theorem test_mute_of_no_channel : after (.mute 9 true) ready (fun t => t) = some ready := by decide
theorem test_run : after (.run false) ready (fun t => (t.run, readRun t)) = some (false, false) := by decide
theorem test_reserved_commands_change_nothing :
    [Instr.crsv0, .crsv5, .crsv6, .crsv7, .crsv8, .crsv9, .crsv10, .crsv11, .crsv12, .crsv13, .crsv14, .crsv15].all
      (fun i => after i armed (fun t => t) == some armed) = true := by decide
/-- R140: Instrument 1 gets attack 2, decay 4, sustain 10, release 6. -/
theorem test_pmwrite : after (.pmwrite .imem 0 0x24A6) State.reset
    (fun t => ([attackNibble, decayNibble, sustainNibble, releaseNibble].map fun f => f (t.insWord 1 0), t.imem))
    = some ([2, 4, 10, 6], [(0, 0xA6), (1, 0x24)]) := by decide
/-- V-ADDR: the last words are inside, the next ones are not. -/
theorem test_pmwrite_ends : (after (.pmwrite .imem 1151 1) ready (fun t => readWord t.imem 1151),
      after (.pmwrite .imem 1152 1) ready (fun t => t), after (.pmwrite .fmem 543 1) ready (fun t => readWord t.fmem 543),
      after (.pmwrite .fmem 544 1) ready (fun t => t)) = (some 1, some ready, some 1, some ready) := by decide

/-! TICK. R217's first row, R231's filter row and R251's pitch, in the same tick; R291. -/

theorem test_tick_runs_one_row_of_each_program : after .tick armed (fun t =>
      let v := t.voice 0
      (v.pw, v.insPos, v.fltPos, v.fxPos, v.freq, t.fCutoff, t.fRoute))
    = some (16, 1, 0, 0, 262144, 10, 0b0011) := by decide +kernel
theorem test_tick_stopped : after .tick { armed with run := false, sampleOut := 5 } (fun t => t)
    = some { armed with run := false, sampleOut := 0 } := by decide

/-! The datapath: the examples of R151 to R170 and of R275, R281. -/

theorem test_phase_wraps : (oscillate false { voiceReset with phase := 0xFFF000, freq := 0x002000 }).phase = 0x001000
    ∧ phaseWrap { voiceReset with phase := 0xFFF000, freq := 0x002000 } = true
    ∧ (oscillate true { voiceReset with phase := 5, freq := 7, flags := 0b1000000 }).phase = 0 := by decide
theorem test_noise_steps : lfsrStep 0x7FFFFF = 0x7FFFFE ∧ lfsrStep 0x7FFFFE = 0x7FFFFC := by decide
theorem test_shapes : sawWave { voiceReset with phase := 0x400000 } = 0x400
    ∧ triWave { voiceReset with phase := 0x400000 } = 0x800 ∧ triWave { voiceReset with phase := 0xC00000 } = 0x7FF
    ∧ triWave { voiceReset with phase := 0x800000 } = 0xFFF
    ∧ pulseWave { voiceReset with pw := 16, phase := 0x7FFFFF } = 0xFFF
    ∧ pulseWave { voiceReset with pw := 16, phase := 0x800000 } = 0
    ∧ noiseWave { voiceReset with lfsr := 0x7FFFFE } = 0xFFF ∧ noiseWave { voiceReset with lfsr := 0x123456 } = 0x246
    ∧ genWave { voiceReset with flags := 0b0000110, phase := 0x400000 } = 0
    ∧ genWave voiceReset = 0x800 := by decide
theorem test_envelope : attackStep 0x800000 0 = (.attack, 0x800000) ∧ attackStep 0x800000 0x800000 = (.decay, 0xFFFFFF)
    ∧ decayStep (sustainTarget 8) 0x200000 0x9FFFFF = (.sustain, 0x880000)
    ∧ decayStep (sustainTarget 8) 0x200000 0xFFFFFF = (.decay, 0xDFFFFF)
    ∧ releaseStep 0x200000 0x280000 = (.release, 0x080000) ∧ releaseStep 0x200000 0x080000 = (.idle, 0) := by decide
theorem test_voiceOut : voiceOut 0xFFF { voiceReset with envAcc := 0xFF0000 } = 32624
    ∧ voiceOut 0x000 { voiceReset with envAcc := 0x800000 } = -16384 := by decide
theorem test_headroom : [130496, -130560, -1, 3, 200000].map (headroom .reference) = [32624, -32640, -1, 0, 32767] := by
  decide
theorem test_filter : (referenceFilter { low := 0, band := 0, extra := [] } 16000 10 8 0b001).1.band = 2750
    ∧ (referenceFilter { low := 0, band := 2750, extra := [] } 16000 10 8 0b111)
      = ({ low := 472, band := 5182, extra := [] }, 472 + 5182 + 14153) := by decide

/-! The host agent: S1's instances, and the fetch of the host's own interface. -/

theorem test_block_duration : blockDuration .reference { songReset with tempo := 6, swing := 2 } = 224
    ∧ blockDuration .reference { songReset with tempo := 3, swing := 1 } = 112 := by decide
theorem test_launch_refuses_a_degenerate_song :
    (match launch .reference [] [] { songReset with tempo := 0 } with
      | .refused r => some r | .next _ => none | .fault _ => none) = some .degenerateSong := by decide +kernel
/-- R66, R101: REFCFG's control word has no bit 4 to 14. -/
theorem test_control_word : controlWord .reference true 0x7FF3 = 0x8003 := by decide
theorem test_fetch_word_runs_a_command : (nextOf (step (State.reset.withFetchWord 32 0x33000001))).map
    (fun t => t.voices.map Voice.mute) = some [false, false, false, true] := by decide
theorem test_fetch_word_runs_a_row : (nextOf (step (State.reset.withFetchWord 16 0x0490))).map
    (fun t => ((t.voice 0).pw, (t.voice 0).flags)) = some (16, 0b0001001) := by decide +kernel

/-! Witnesses: a state and operands that meet the hypotheses of each statement that has any, clause by clause, at the
bounds of their ranges. -/

theorem witness_DecodeOfEncodeIsTheInstruction :
    (Instr.noteOn 15 254 255 255).wellFormed = true ∧ (Instr.pmwrite .fmem 0xFFFFFF 0xFFFF).wellFormed = true := by
  decide
theorem witness_EveryWordDecodesAndExecutes :
    ([0xFF, 0xFF] : List Byte).length = Source.byteLength .filter ∧ ([] : List Byte).length = Source.byteLength .strobe
      ∧ ([0xFF, 0, 0, 0xFF] : List Byte).length = Source.byteLength .command := by decide
theorem witness_ReservedBitsAreIgnored :
    ((0x1F1234FF : CmdWord).extractLsb' 28 4 = 1 ∧ (0x1F1234FF : CmdWord).extractLsb' 0 8 = 255)
      ∧ (0x3FFFFFFF : CmdWord).extractLsb' 28 4 = 3 ∧ (0x4FFFFFFE : CmdWord).extractLsb' 28 4 = 4
      ∧ ((0x2FFFFFFF : CmdWord).extractLsb' 28 4 ≠ 1 ∧ (0x2FFFFFFF : CmdWord).extractLsb' 28 4 ≠ 3
        ∧ (0x2FFFFFFF : CmdWord).extractLsb' 28 4 ≠ 4)
      ∧ ((0xFFFFFFFF : CmdWord).extractLsb' 28 4 ≠ 1 ∧ (0xFFFFFFFF : CmdWord).extractLsb' 28 4 ≠ 3
        ∧ (0xFFFFFFFF : CmdWord).extractLsb' 28 4 ≠ 4) := by decide
theorem witness_StepExecutesTheOldestEvent :
    (armed.withPending [.command 0x33000001, .tick]).pending = .command 0x33000001 :: [.tick]
      ∧ eventInstr (.command 0x33000001) = some (.mute 3 true) := by decide
/-- Armed, unassigned, and assigned to an Instrument and an Effect whose programs are empty (Instrument 2, Effect 2). -/
theorem witness_InterpretersExecuteTheFetchedRow :
    (armed.activeVoice.curIns ≠ 0 ∧ 0 < min (headerLength (armed.insWord 1 1)) (maxInstrumentLength armed.build)
        ∧ 0 < min (headerLength (armed.insWord 1 3)) (maxFilterLength armed.build) ∧ armed.activeVoice.curFx ≠ 0
        ∧ 0 < min (headerLength (armed.fxWord 1 0)) (maxEffectLength armed.build))
      ∧ (ready.activeVoice.curIns = 0 ∧ ready.activeVoice.curFx = 0)
      ∧ min (headerLength (ready.insWord 2 1)) (maxInstrumentLength ready.build) = 0
      ∧ min (headerLength (ready.insWord 2 3)) (maxFilterLength ready.build) = 0
      ∧ min (headerLength (ready.fxWord 2 0)) (maxEffectLength ready.build) = 0 := by decide
/-- Another channel as the active one: channel 3 is the last. -/
def activeAt (c : Nat) : State := armed.withActive c
theorem witness_WsetSetsPulseWidthAndFlags : (0x0490 : Word16) &&& 0x0060 = 0x0000
    ∧ (activeAt 3).active < (activeAt 3).voices.length := by decide
theorem witness_WincRaisesPulseWidthToAtMost31 : (0x04A1 : Word16) &&& 0x0060 = 0x0020
    ∧ (activeAt 3).active < (activeAt 3).voices.length := by decide
theorem witness_WdecLowersPulseWidthToAtLeast0 : (0x1243 : Word16) &&& 0x0060 = 0x0040
    ∧ (activeAt 3).active < (activeAt 3).voices.length := by decide
theorem witness_WrsvLatchesFlagsAlone : (0x00FF : Word16) &&& 0x0060 = 0x0060
    ∧ (activeAt 3).active < (activeAt 3).voices.length := by decide
theorem witness_FsetSetsCutoffAndFilterRegisters : (0x180A : Word16) &&& 0x0060 = 0x0000
    ∧ armed.activeVoice.curIns ≠ 0 := by decide
theorem witness_FincRaisesCutoffToAtMost31 : (0x6F22 : Word16) &&& 0x0060 = 0x0020
    ∧ armed.activeVoice.curIns ≠ 0 := by decide
theorem witness_FdecLowersCutoffToAtLeast0 : (0x1043 : Word16) &&& 0x0060 = 0x0040
    ∧ armed.activeVoice.curIns ≠ 0 := by decide
theorem witness_FrsvHoldsCutoff : (0x2560 : Word16) &&& 0x0060 = 0x0060
    ∧ armed.activeVoice.curIns ≠ 0 := by decide
theorem witness_ErelOffsetsTheNote : (0x003C : Word16) &&& 0x0300 = 0x0000 := by decide
theorem witness_EabsReplacesTheNote : (0x013C : Word16) &&& 0x0300 = 0x0100 := by decide
theorem witness_EdetOffsetsByFineSteps : (0x022D : Word16) &&& 0x0300 = 0x0200 := by decide
theorem witness_ErsvContributesNothing : (0x03FF : Word16) &&& 0x0300 = 0x0300 := by decide
theorem witness_PitchPathWritesTheFrequency : (activeAt 3).active < (activeAt 3).voices.length := by decide
/-- Channel 3 is the last of REFCFG and channel 4 the first that does not exist; notes 1 and 254. -/
theorem witness_NoteOnArmsTheVoice : (1 : BitVec 8) ≠ 0 ∧ (1 : BitVec 8) ≠ 255 ∧ (254 : BitVec 8) ≠ 0
    ∧ (254 : BitVec 8) ≠ 255 ∧ (channelCount sounding.build ≤ (4 : Chan).toNat)
    ∧ ((3 : Chan).toNat < channelCount sounding.build ∧ (3 : Chan).toNat < sounding.voices.length) := by decide
theorem witness_NoteOffClearsTheGateAlone : (channelCount sounding.build ≤ (4 : Chan).toNat)
    ∧ ((3 : Chan).toNat < channelCount sounding.build ∧ (3 : Chan).toNat < sounding.voices.length) := by decide
theorem witness_AdoptTakesOnlyWhatIsUnassigned : (channelCount sounding.build ≤ (4 : Chan).toNat)
    ∧ ((0 : Chan).toNat < channelCount sounding.build ∧ (0 : Chan).toNat < sounding.voices.length) := by decide
theorem witness_SilenceResetsAllButRunMuteAndMemory : 3 < sounding.voices.length := by decide
theorem witness_MuteWritesOneBit : (channelCount sounding.build ≤ (15 : Chan).toNat)
    ∧ ((3 : Chan).toNat < channelCount sounding.build ∧ (3 : Chan).toNat < sounding.voices.length) := by decide
theorem witness_ReservedCommandsChangeNothing : (0x0FFFFFFF : CmdWord).extractLsb' 28 4 = 0
    ∧ 5 ≤ ((0x50000000 : CmdWord).extractLsb' 28 4).toNat ∧ 5 ≤ ((0xF0000000 : CmdWord).extractLsb' 28 4).toNat := by
  decide
/-- The last word of each space and the first beyond it, and a byte outside the word written. -/
theorem witness_PmwriteWritesOneWord : ready.imem.wf = true ∧ ready.fmem.wf = true
    ∧ (1151 : BitVec 24).toNat < imemWords ready.build ∧ ¬ (1152 : BitVec 24).toNat < imemWords ready.build
    ∧ (543 : BitVec 24).toNat < fmemWords ready.build ∧ ¬ (544 : BitVec 24).toNat < fmemWords ready.build
    ∧ (2304 ≠ 2 * (1151 : BitVec 24).toNat ∧ 2304 ≠ 2 * (1151 : BitVec 24).toNat + 1) := by decide
theorem witness_StoppedTickEmitsZeroAndFreezes : ({ armed with run := false } : State).run = false := by decide
/-- The hypotheses that the statements of a running TICK share. -/
theorem witness_running_tick : armed.run = true ∧ armed.voices.length = channelCount armed.build := by decide
/-- Channel 0 is armed, channel 3 is not, and Instrument 2's wave program is empty. -/
theorem witness_TickRunsOneWaveRowPerArmedChannel : armed.run = true ∧ armed.voices.length = channelCount armed.build
    ∧ 0 < channelCount armed.build ∧ 3 < channelCount armed.build ∧ (armed.voice 3).curIns = 0
    ∧ min (headerLength (armed.insWord 2 1)) (maxInstrumentLength armed.build) = 0 ∧ (armed.voice 0).curIns ≠ 0
    ∧ 0 < min (headerLength (armed.insWord 1 1)) (maxInstrumentLength armed.build) := by decide
theorem witness_TickMovesFilterAndEffectCursors : armed.run = true
    ∧ armed.voices.length = channelCount armed.build ∧ 3 < channelCount armed.build := by decide
theorem witness_TickWritesTheFrequencyOfTheEffectRow : armed.run = true
    ∧ armed.voices.length = channelCount armed.build ∧ 3 < channelCount armed.build := by decide
/-- In `armed` channel 0 is the only one that executes a filter row; in `ready` none does. -/
theorem witness_TickLetsTheLaterFilterRowWin : armed.run = true ∧ armed.voices.length = channelCount armed.build
    ∧ ((armed.voice 0).curIns ≠ 0
      ∧ 0 < min (headerLength (armed.insWord (armed.voice 0).curIns.toNat 3)) (maxFilterLength armed.build))
    ∧ ((armed.voice 1).curIns = 0 ∧ (armed.voice 2).curIns = 0 ∧ (armed.voice 3).curIns = 0)
    ∧ ready.run = true ∧ ready.voices.length = channelCount ready.build
    ∧ (ready.voices.all fun v => v.curIns == 0) = true := by decide
theorem witness_TickAdvancesPhaseSyncAndNoise : armed.run = true ∧ armed.voices.length = channelCount armed.build
    ∧ 3 < channelCount armed.build ∧ (armed.voice 3).lfsr ≠ 0 := by decide
theorem witness_TickStepsTheEnvelope : armed.run = true ∧ armed.voices.length = channelCount armed.build
    ∧ 3 < channelCount armed.build := by decide
theorem witness_TickMixesTheAudibleVoices : sounding.run = true
    ∧ sounding.voices.length = channelCount sounding.build := by decide
theorem witness_TickLeavesCommandsAndMemoryAlone : armed.run = true ∧ armed.voices.length = channelCount armed.build
    ∧ 3 < channelCount armed.build := by decide
theorem witness_HeadroomKeepsUnfilteredVoicesFromClipping : channelCount .reference ≤ 2 ^ 2
    ∧ ∀ c, -32640 ≤ (fun _ : Nat => (32640 : Int)) c ∧ (fun _ : Nat => (32640 : Int)) c ≤ 32640 :=
  ⟨by decide, fun _ => ⟨by norm_num, by norm_num⟩⟩
/-- Channel 0 sounds and no channel is routed after the TICK: its Instrument has no filter program. -/
theorem witness_UnroutedTickIsTheExactSum :
    let s := { armed with imem := writeWord imem1 3 0 }
    s.run = true ∧ s.voices.length = channelCount s.build ∧ s.fState = filterInit s.build
      ∧ after .tick s (fun t => t.fRoute) = some 0 := by decide +kernel
theorem witness_OnlyPmwriteWritesProgramMemory : ∀ space addr data, Instr.silence ≠ .pmwrite space addr data := by
  intro _ _ _ h
  cases h
theorem witness_MutesReachOnlyFilterMemoryAndOutput :
    SameButMute armed (armed.modVoice 0 fun v => { v with mute := true }) := by decide
theorem witness_EveryStepKeepsTheStateInvariant :
    StateInv (armed.withPending [.tick]) ∧ (nextOf (step (armed.withPending [.tick]))).isSome = true := by
  decide +kernel
theorem witness_ResetHasTheStateInvariant : imem1.wf = true ∧ Memory.below (2 * imemWords .reference) imem1 = true
    ∧ fmem1.wf = true ∧ Memory.below (2 * fmemWords .reference) fmem1 = true ∧ SongInv songReset := by decide
/-- A Song at the bounds of its invariants, and one degenerate in each way. -/
theorem witness_ResetGivesTheResetValues : 3 < channelCount .reference
    ∧ SongOk .reference { songReset with tableLength := 255, table := [(16 * 254 + 3, 255)] }
    ∧ ¬ SongOk .reference { songReset with tempo := 0 } ∧ ¬ SongOk .reference { songReset with tableLength := 0 } := by
  decide +kernel

/-- The cursor of a wave program of length 3 and loop 1 at successive executions, from 0. -/
def cursorAt : Nat → BitVec 8
  | 0 => 0
  | k + 1 => ((fetchPlan 0x0103 16 (cursorAt k)).map Prod.snd).getD 0

theorem witness_ProgramWrapsFromItsLengthToItsLoop : HeaderOk 0x0103 16 ∧ cursorAt 0 = 0
    ∧ ∀ k, ∀ p next, fetchPlan 0x0103 16 (cursorAt k) = some (p, next) → cursorAt (k + 1) = next :=
  ⟨by decide, rfl, fun _ _ _ h => by rw [cursorAt, h]; rfl⟩
theorem witness_RateTablesAreBoundedAndMonotonic :
    attackRate ∈ [attackRate, decayRate, releaseRate] ∧ (0 : BitVec 4).toNat ≤ (15 : BitVec 4).toNat :=
  ⟨List.mem_cons_self, by decide⟩
theorem witness_FrequencyRomIsNonDecreasing : fine .reference ≤ 16 ∧ 16 ≤ 1536 ∧ 1536 ≤ 96 * fine .reference := by
  decide
/-- A sounding voice with the gate low, and the same voice with the gate high. -/
theorem witness_EveryEnvelopeStageEnds :
    let low := sounding.voice 0
    let high := { sounding.voice 0 with flags := 0b0000001 }
    ((low.envStage = .idle → low.envAcc = 0) ∧ effectiveGate low = false)
      ∧ (high.envStage = .idle → high.envAcc = 0) ∧ effectiveGate high = true := by decide
/-- The three transport phases. -/
def phaseIs (p : TState) : State := armed.withTransport { armed.transport with tstate := p }
theorem witness_PlayAndPauseDriveTheRunRegister : (phaseIs .stopped).transport.tstate ≠ .playing
    ∧ (phaseIs .paused).transport.tstate ≠ .playing ∧ (phaseIs .playing).transport.tstate = .playing := by decide
/-- The last entries of the table and of the tracks. -/
theorem witness_SeekClampsToTheLastBlock : 1 ≤ ready.transport.song.tableLength.toNat ∧ SongInv ready.transport.song
    ∧ (254 < maxSongLength ready.build ∧ 3 < channelCount ready.build)
    ∧ (1 ≤ 255 ∧ 255 ≤ trackCount ready.build ∧ 31 < trackLength ready.build) := by decide

/-- A playing machine at a place in its Song of two blocks; a row lasts 3 or 4 samples. -/
def playingAt (block row frame : Nat) (loop : Bool) : State :=
  armed.withTransport { armed.transport with
    tstate := .playing, block := block, row := row, frame := frame, blockLoop := loop }

/-- PLAYING at a row's first sample and at one inside it (the second of three), and STOPPED with `run` = 0. -/
theorem witness_SampleDispatchesTheRowBeforeTheTick : (playingAt 0 0 0 false).transport.tstate = .playing
    ∧ ((playingAt 0 0 1 false).transport.tstate = .playing ∧ (playingAt 0 0 1 false).transport.frame ≠ 0
      ∧ (playingAt 0 0 1 false).transport.frame + 1
        < rowLen .reference (playingAt 0 0 1 false).transport.song (playingAt 0 0 1 false).transport.row)
    ∧ (State.reset.transport.tstate ≠ .playing ∧ State.reset.run = false) := by decide

/-- Each clause of the end of a row, at the values where they meet. -/
theorem witness_RowEndAdvancesBlockOrStops :
    let full := fun (s : State) => rowLen s.build s.transport.song s.transport.row ≤ s.transport.frame + 1
    let lastRow := fun (s : State) => trackLength s.build ≤ s.transport.row + 1
    let lastBlock := fun (s : State) => s.transport.song.tableLength.toNat ≤ s.transport.block + 1
    ¬ full (playingAt 0 0 1 false)
      ∧ (full (playingAt 0 0 2 false) ∧ ¬ lastRow (playingAt 0 0 2 false))
      ∧ (full (playingAt 0 31 3 false) ∧ lastRow (playingAt 0 31 3 false) ∧ ¬ lastBlock (playingAt 0 31 3 false))
      ∧ (full (playingAt 1 31 3 true) ∧ lastRow (playingAt 1 31 3 true) ∧ lastBlock (playingAt 1 31 3 true)
        ∧ (playingAt 1 31 3 true).transport.blockLoop = true)
      ∧ (full (playingAt 1 31 3 false) ∧ lastRow (playingAt 1 31 3 false) ∧ lastBlock (playingAt 1 31 3 false)
        ∧ (playingAt 1 31 3 false).transport.blockLoop = false) := by decide
/-- The start of a block with one after it, and of the last block with and without the loop. -/
theorem witness_BlockDurationFormula : ∀ p ∈ [(0, false), (1, true), (1, false)],
    let tr := (playingAt p.1 0 0 p.2).transport
    1 ≤ tr.song.tempo.toNat ∧ tr.tstate = .playing ∧ tr.row = 0 ∧ tr.frame = 0
      ∧ (tr.block + 1 < tr.song.tableLength.toNat ↔ p.1 = 0) ∧ tr.blockLoop = p.2 := by decide

end Sys2Proof.Tests
end

/-! The rate tables of every build (R161), and the stages of the envelope one after the other (R163 to R168). -/
section
namespace Sys2Proof.Machine

/-! A running maximum: how a table with open entries is made monotonic. -/

/-- A running maximum is the least bound of the entries it runs over. -/
theorem runningMax_le_iff (f : Nat → Nat) (lo k m : Nat) : runningMax f lo k ≤ m ↔ ∀ i, i ≤ k → f (lo + i) ≤ m := by
  induction k with
  | zero => simp [runningMax]
  | succ k ih =>
    rw [runningMax, max_le_iff, ih]
    constructor
    · rintro ⟨hlow, hlast⟩ i hi
      obtain hi | rfl := Nat.le_succ_iff.mp hi
      · exact hlow i hi
      · exact hlast
    · exact fun h => ⟨fun i hi => h i (by omega), h (k + 1) le_rfl⟩

/-- Every entry a running maximum runs over is at most that maximum. -/
theorem le_runningMax (f : Nat → Nat) {lo k i : Nat} (hlo : lo ≤ i) (hk : i ≤ lo + k) : f i ≤ runningMax f lo k := by
  have h := (runningMax_le_iff f lo k _).mp le_rfl (i - lo) (by omega)
  rwa [Nat.add_sub_cancel' hlo] at h

/-- A running maximum over more entries is no smaller. -/
theorem runningMax_le_runningMax (f : Nat → Nat) {lo k lo' k' : Nat} (hlo : lo' ≤ lo) (hk : lo + k ≤ lo' + k') :
    runningMax f lo k ≤ runningMax f lo' k' :=
  (runningMax_le_iff ..).mpr fun _ _ => le_runningMax f (by omega) (by omega)

/-- A running maximum of entries in a range is in that range. -/
theorem runningMax_mem {f : Nat → Nat} {a b : Nat} (h : ∀ i, a ≤ f i ∧ f i ≤ b) (lo k : Nat) :
    a ≤ runningMax f lo k ∧ runningMax f lo k ≤ b :=
  ⟨(h lo).1.trans (le_runningMax f le_rfl (by omega)), (runningMax_le_iff ..).mpr fun _ _ => (h _).2⟩

/-- A number clamped into a range that is not empty lies in it (R11). -/
theorem clampNat_mem {lo hi : Nat} (h : lo ≤ hi) (v : Nat) : lo ≤ clampNat v lo hi ∧ clampNat v lo hi ≤ hi := by
  simp only [clampNat]
  omega

/-! The rate tables. -/

/-- What R161 asks of a rate table: every entry in 1..2^24−1, and one direction over the sixteen nibbles. -/
structure IsRateTable (rate : BitVec 4 → Nat) : Prop where
  /-- Every entry is in 1..2^24−1. -/
  bounds : ∀ n, 1 ≤ rate n ∧ rate n ≤ envMax
  /-- The table is non-decreasing or non-increasing. -/
  monotonic : (∀ m n : BitVec 4, m.toNat ≤ n.toNat → rate m ≤ rate n)
    ∨ (∀ m n : BitVec 4, m.toNat ≤ n.toNat → rate n ≤ rate m)

/-- REFCFG's tables, which halve from one nibble to the next, are rate tables (R161). -/
theorem isRateTable_two_pow_sub {k : Nat} (hk : k ≤ 23) : IsRateTable fun n => 2 ^ (k - n.toNat) where
  bounds n := by
    refine ⟨Nat.one_le_two_pow, ?_⟩
    calc 2 ^ (k - n.toNat) ≤ 2 ^ 23 := Nat.pow_le_pow_right (by omega) (by omega)
      _ ≤ envMax := by decide
  monotonic := .inr fun _ _ h => Nat.pow_le_pow_right (by omega) (by omega)

/-- Whatever its open entries and its direction, the table made of them is a rate table (R161). -/
theorem isRateTable_openRate (up : Bool) (raw : Nat → Nat) : IsRateTable fun n => openRate up raw n.toNat := by
  have table := runningMax_mem fun i => clampNat_mem (by decide : 1 ≤ envMax) (raw i)
  cases up with
  | true => exact ⟨fun _ => table _ _, .inl fun _ _ h => runningMax_le_runningMax _ le_rfl (by omega)⟩
  | false =>
    refine ⟨fun _ => table _ _, .inr fun m n h => runningMax_le_runningMax _ h ?_⟩
    have := n.isLt
    omega

theorem isRateTable_attackRate (b : Build) : IsRateTable (attackRate b) := by
  cases b with
  | reference => exact isRateTable_two_pow_sub (k := 23) (by decide)
  | other n => exact isRateTable_openRate _ _

theorem isRateTable_decayRate (b : Build) : IsRateTable (decayRate b) := by
  cases b with
  | reference => exact isRateTable_two_pow_sub (k := 21) (by decide)
  | other n => exact isRateTable_openRate _ _

theorem isRateTable_releaseRate (b : Build) : IsRateTable (releaseRate b) := by
  cases b with
  | reference => exact isRateTable_two_pow_sub (k := 21) (by decide)
  | other n => exact isRateTable_openRate _ _

/-- Settles O50: each of the three tables is a rate table in every build. -/
theorem rateTablesAreBoundedAndMonotonic : Obligations.RateTablesAreBoundedAndMonotonic := by
  unfold Obligations.RateTablesAreBoundedAndMonotonic
  refine ⟨fun b rate hrate => ?_, fun _ => rfl, rfl, rfl⟩
  have h : IsRateTable (rate b) := by
    simp only [List.mem_cons, List.not_mem_nil, or_false] at hrate
    obtain rfl | rfl | rfl := hrate
    · exact isRateTable_attackRate b
    · exact isRateTable_decayRate b
    · exact isRateTable_releaseRate b
  exact ⟨h.bounds, h.monotonic⟩

/-! How long a stage can last: a number of ticks that every tick makes smaller, as every rate is at least 1. -/

/-- With the gate low, at most this many ticks lead to IDLE: one for each unit of the level, and one for level 0. -/
def ticksToIdle : Stage → Nat → Nat
  | .idle, _ => 0
  | _, acc => acc + 1

/-- With the gate high, at most this many ticks lead to SUSTAIN: up to the full level, then down again. -/
def ticksToSustain : Stage → Nat → Nat
  | .sustain, _ => 0
  | .decay, acc => acc + 1
  | _, acc => 2 ^ 25 - acc

theorem ticksToIdle_releaseStep_lt {rate : Nat} (hr : 1 ≤ rate) (acc : Nat) :
    ticksToIdle (releaseStep rate acc).1 (releaseStep rate acc).2 < acc + 1 := by
  simp only [releaseStep]
  split
  · exact Nat.succ_pos acc
  · simp only [ticksToIdle]
    omega

theorem ticksToSustain_attackStep_lt {rate acc : Nat} (hr : 1 ≤ rate) (hacc : acc < 2 ^ 24) :
    ticksToSustain (attackStep rate acc).1 (attackStep rate acc).2 < 2 ^ 25 - acc := by
  simp only [attackStep]
  split <;> simp only [ticksToSustain, envMax] at * <;> omega

theorem ticksToSustain_decayStep_lt {rate : Nat} (hr : 1 ≤ rate) (target acc : Nat) :
    ticksToSustain (decayStep target rate acc).1 (decayStep target rate acc).2 < acc + 1 := by
  by_cases habove : target < acc
  · simp only [decayStep, habove, if_true]
    split
    · exact Nat.succ_pos acc
    · simp only [ticksToSustain]
      omega
  · simp only [decayStep, habove, if_false, Nat.le_of_not_lt habove, if_true, ticksToSustain]
    exact Nat.succ_pos acc

/-- With the gate low every sounding stage takes a RELEASE step, which brings IDLE closer (R163, R167). -/
theorem ticksToIdle_stageStep_lt (b : Build) (adsr : Word16) {st : Stage} (hst : st ≠ .idle) (acc : Nat) :
    ticksToIdle (stageStep b adsr (gateStage false st) acc).1 (stageStep b adsr (gateStage false st) acc).2
      < ticksToIdle st acc := by
  have hrelease := ticksToIdle_releaseStep_lt ((isRateTable_releaseRate b).bounds (releaseNibble adsr)).1 acc
  cases st with
  | idle => exact absurd rfl hst
  | attack => exact hrelease
  | decay => exact hrelease
  | sustain => exact hrelease
  | release => exact hrelease

/-- With the gate high every stage but SUSTAIN takes an ATTACK or a DECAY step, which brings SUSTAIN closer
(R163 to R165). -/
theorem ticksToSustain_stageStep_lt (b : Build) (adsr : Word16) {st : Stage} (hst : st ≠ .sustain) {acc : Nat}
    (hacc : acc < 2 ^ 24) :
    ticksToSustain (stageStep b adsr (gateStage true st) acc).1 (stageStep b adsr (gateStage true st) acc).2
      < ticksToSustain st acc := by
  have hattack := ticksToSustain_attackStep_lt ((isRateTable_attackRate b).bounds (attackNibble adsr)).1 hacc
  cases st with
  | sustain => exact absurd rfl hst
  | idle => exact hattack
  | attack => exact hattack
  | release => exact hattack
  | decay => exact ticksToSustain_decayStep_lt ((isRateTable_decayRate b).bounds (decayNibble adsr)).1 _ acc

/-- A stage is reached within `ticks` if every tick before it makes `ticks` smaller; the envelope leaves the effective
gate as it is. -/
theorem exists_iterate_envelope_stage {b : Build} {adsr : Word16} {goal : Stage} {g : Bool} {ticks : Stage → Nat → Nat}
    (hdec : ∀ st acc, st ≠ goal → acc < 2 ^ 24 →
      ticks (stageStep b adsr (gateStage g st) acc).1 (stageStep b adsr (gateStage g st) acc).2 < ticks st acc)
    (v : Voice) (hg : effectiveGate v = g) :
    ∃ k, k ≤ ticks v.envStage v.envAcc.toNat ∧ ((envelope b adsr)^[k] v).envStage = goal := by
  by_cases hgoal : v.envStage = goal
  · exact ⟨0, Nat.zero_le _, hgoal⟩
  · have hlt : ticks (envelope b adsr v).envStage (envelope b adsr v).envAcc.toNat
        < ticks v.envStage v.envAcc.toNat := by
      rw [envelope_envAcc]
      subst hg
      exact hdec _ _ hgoal v.envAcc.isLt
    obtain ⟨k, hk, hreached⟩ := exists_iterate_envelope_stage hdec (envelope b adsr v) hg
    exact ⟨k + 1, by omega, hreached⟩
termination_by ticks v.envStage v.envAcc.toNat

theorem ticksToIdle_le (st : Stage) {acc : Nat} (hacc : acc < 2 ^ 24) : ticksToIdle st acc ≤ 2 ^ 24 := by
  cases st <;> simp only [ticksToIdle] <;> omega

theorem ticksToSustain_le (st : Stage) {acc : Nat} (hacc : acc < 2 ^ 24) : ticksToSustain st acc ≤ 2 ^ 25 := by
  cases st <;> simp only [ticksToSustain] <;> omega

/-- Settles O52: each tick brings IDLE, or SUSTAIN, closer; that IDLE is at level 0 is kept from the start. -/
theorem everyEnvelopeStageEnds : Obligations.EveryEnvelopeStageEnds := by
  unfold Obligations.EveryEnvelopeStageEnds
  intro b adsr v hidle
  constructor
  · intro hg
    obtain ⟨k, hk, hstage⟩ :=
      exists_iterate_envelope_stage (fun _ acc hst _ => ticksToIdle_stageStep_lt b adsr hst acc) v hg
    have hlevel : ((envelope b adsr)^[k] v).envStage = .idle → ((envelope b adsr)^[k] v).envAcc = 0 :=
      Function.Iterate.rec (fun w : Voice => w.envStage = .idle → w.envAcc = 0) hidle (envelope_idle b adsr) k
    exact ⟨k, hk.trans (ticksToIdle_le _ v.envAcc.isLt), hstage, hlevel hstage⟩
  · intro hg
    obtain ⟨k, hk, hstage⟩ :=
      exists_iterate_envelope_stage (fun _ _ hst hacc => ticksToSustain_stageStep_lt b adsr hst hacc) v hg
    exact ⟨k, hk.trans (ticksToSustain_le _ v.envAcc.isLt), hstage⟩

end Sys2Proof.Machine
end

/-! The state invariant (R21, R23, R30, R33, R34, R172): what each update of the state owes it, that every instruction
and every event of the host agent keeps it, and that reset has it. -/
section
namespace Sys2Proof.Machine

/-! One channel's bounds. -/

/-- A channel's reset values are within its bounds (R40). -/
theorem voiceInv_voiceReset (b : Build) : VoiceInv b voiceReset :=
  ⟨Nat.zero_le _, Nat.zero_le _, by decide, fun _ => rfl⟩

/-- An index that is taken or held is within its count if both are (R122). -/
theorem takeIndex_le {count : Nat} {new held : BitVec 8} (hnew : new.toNat ≤ count) (hheld : held.toNat ≤ count) :
    (takeIndex new held).toNat ≤ count := by
  unfold takeIndex
  split
  · exact hnew
  · exact hheld

theorem State.insOk_le (s : State) (ins : BitVec 8) : (s.insOk ins).toNat ≤ instrumentCount s.build :=
  resolveIndex_le _ ins

theorem State.fxOk_le (s : State) (fx : BitVec 8) : (s.fxOk fx).toNat ≤ effectCount s.build :=
  resolveIndex_le _ fx

/-- NOTE_ON's indices are within their counts, and a restart goes to IDLE at level 0 (R122). -/
theorem voiceInv_noteOnVoice (s : State) (note ins fx : BitVec 8) {v : Voice} (hv : VoiceInv s.build v) :
    VoiceInv s.build (s.noteOnVoice note (s.insOk ins) (s.fxOk fx) v) := by
  obtain ⟨hins, hfx, hlfsr, hidle⟩ := hv
  have htakeIns := takeIndex_le (s.insOk_le ins) hins
  have htakeFx := takeIndex_le (s.fxOk_le fx) hfx
  simp only [State.noteOnVoice]
  split
  · exact ⟨htakeIns, htakeFx, hlfsr, fun _ => rfl⟩
  · exact ⟨htakeIns, htakeFx, hlfsr, hidle⟩

/-- The Instrument that ADOPT assigns is within its count (R124). -/
theorem voiceInv_adoptIns {b : Build} {v : Voice} (hv : VoiceInv b v) {ins : BitVec 8}
    (hins : ins.toNat ≤ instrumentCount b) : VoiceInv b (adoptIns ins v) := by
  obtain ⟨hheld, hrest⟩ := hv
  unfold adoptIns
  split
  · exact ⟨hins, hrest⟩
  · exact ⟨hheld, hrest⟩

/-- The Effect that ADOPT assigns is within its count (R124). -/
theorem voiceInv_adoptFx {b : Build} {v : Voice} (hv : VoiceInv b v) {fx : BitVec 8}
    (hfx : fx.toNat ≤ effectCount b) : VoiceInv b (adoptFx fx v) := by
  obtain ⟨hins, hheld, hrest⟩ := hv
  unfold adoptFx
  split
  · exact ⟨hins, hfx, hrest⟩
  · exact ⟨hins, hheld, hrest⟩

/-- A noise register that is not 0 stays so whether it is clocked or not (R30, R153). -/
theorem nextLfsr_ne_zero {l : BitVec 23} (hl : l ≠ 0) (old new : BitVec 24) : nextLfsr l old new ≠ 0 := by
  unfold nextLfsr
  split
  · exact lfsrStep_ne_zero l hl
  · exact hl

theorem voiceInv_oscillate {b : Build} {v : Voice} (w : Bool) (hv : VoiceInv b v) : VoiceInv b (oscillate w v) := by
  obtain ⟨hins, hfx, hlfsr, hidle⟩ := hv
  exact ⟨hins, hfx, nextLfsr_ne_zero hlfsr _ _, hidle⟩

theorem voiceInv_envelope {b : Build} {v : Voice} (adsr : Word16) (hv : VoiceInv b v) :
    VoiceInv b (envelope b adsr v) := by
  obtain ⟨hins, hfx, hlfsr, hidle⟩ := hv
  exact ⟨hins, hfx, hlfsr, envelope_idle b adsr v hidle⟩

/-! What each update of the state owes the invariant: nothing where it writes what the invariant does not read. -/

theorem StateInv.withPending {s : State} (h : StateInv s) (es : List Event) : StateInv (s.withPending es) := h
theorem StateInv.issue {s : State} (h : StateInv s) (es : List Event) : StateInv (s.issue es) := h
theorem StateInv.withRun {s : State} (h : StateInv s) (b : Bool) : StateInv (s.withRun b) := h
theorem StateInv.withSampleOut {s : State} (h : StateInv s) (v : Word16) : StateInv (s.withSampleOut v) := h
theorem StateInv.withFState {s : State} (h : StateInv s) (m : FilterMem) : StateInv (s.withFState m) := h
theorem StateInv.withActive {s : State} (h : StateInv s) (c : Nat) : StateInv (s.withActive c) := h
theorem StateInv.withPfRaw {s : State} (h : StateInv s) (p : Int) : StateInv (s.withPfRaw p) := h

theorem StateInv.voiceInv {s : State} (h : StateInv s) {v : Voice} (hv : v ∈ s.voices) : VoiceInv s.build v := by
  obtain ⟨-, hvoices, -⟩ := h
  exact hvoices v hv

theorem StateInv.withVoices {s : State} (h : StateInv s) {vs : List Voice} (hlen : vs.length = s.voices.length)
    (hvs : ∀ v ∈ vs, VoiceInv s.build v) : StateInv (s.withVoices vs) := by
  obtain ⟨hcount, -, hrest⟩ := h
  exact ⟨hlen.trans hcount, hvs, hrest⟩

/-- Every channel rewritten within its bounds, each with its number at hand. -/
theorem StateInv.withVoices_mapIdx {s : State} (h : StateInv s) {f : Nat → Voice → Voice}
    (hf : ∀ c v, VoiceInv s.build v → VoiceInv s.build (f c v)) : StateInv (s.withVoices (s.voices.mapIdx f)) := by
  refine h.withVoices List.length_mapIdx fun w hw => ?_
  obtain ⟨c, hc, rfl⟩ := List.mem_mapIdx.mp hw
  exact hf c _ (h.voiceInv (List.getElem_mem hc))

theorem StateInv.withVoices_map {s : State} (h : StateInv s) {f : Voice → Voice}
    (hf : ∀ v, VoiceInv s.build v → VoiceInv s.build (f v)) : StateInv (s.withVoices (s.voices.map f)) := by
  refine h.withVoices (List.length_map f) fun w hw => ?_
  obtain ⟨v, hv, rfl⟩ := List.mem_map.mp hw
  exact hf v (h.voiceInv hv)

/-- One channel rewritten within its bounds. -/
theorem StateInv.modVoice {s : State} (h : StateInv s) (c : Nat) {f : Voice → Voice}
    (hf : ∀ v, VoiceInv s.build v → VoiceInv s.build (f v)) : StateInv (s.modVoice c f) := by
  refine h.withVoices (List.length_modify ..) fun w hw => ?_
  obtain ⟨i, hi, rfl⟩ := List.mem_iff_getElem.mp hw
  rw [List.length_modify] at hi
  have hold := h.voiceInv (List.getElem_mem hi)
  rw [List.getElem_modify]
  split
  · exact hf _ hold
  · exact hold

/-- The filter control registers owe that the routing mask names only channels that exist (R34). -/
theorem StateInv.withFilter {s : State} (h : StateInv s) (k : BitVec 5) (r : BitVec 4) (ty : BitVec 3) {m : BitVec 15}
    (hm : m.toNat < 2 ^ channelCount s.build) : StateInv (s.withFilter k r ty m) := by
  obtain ⟨hcount, hvoices, -, hmem⟩ := h
  exact ⟨hcount, hvoices, hm, hmem⟩

/-- A word written inside IMEM (R62). -/
theorem StateInv.withImem_writeWord {s : State} (h : StateInv s) {a : Nat} (ha : a < imemWords s.build) (w : Word16) :
    StateInv (s.withImem (writeWord s.imem a w)) := by
  obtain ⟨hcount, hvoices, hroute, hwf, hbelow, hrest⟩ := h
  exact ⟨hcount, hvoices, hroute, writeWord_wf hwf a w, writeWord_below hbelow a w ha, hrest⟩

/-- A word written inside FMEM (R63). -/
theorem StateInv.withFmem_writeWord {s : State} (h : StateInv s) {a : Nat} (ha : a < fmemWords s.build) (w : Word16) :
    StateInv (s.withFmem (writeWord s.fmem a w)) := by
  obtain ⟨hcount, hvoices, hroute, himem, hibelow, hwf, hbelow, hsong⟩ := h
  exact ⟨hcount, hvoices, hroute, himem, hibelow, writeWord_wf hwf a w, writeWord_below hbelow a w ha, hsong⟩

theorem StateInv.songInv {s : State} (h : StateInv s) : SongInv s.transport.song := by
  obtain ⟨-, -, -, -, -, -, -, hsong⟩ := h
  exact hsong

/-- Of the host agent the invariant reads the Song alone. -/
theorem StateInv.modTransport {s : State} (h : StateInv s) {f : Transport → Transport}
    (hf : SongInv (f s.transport).song) : StateInv (s.modTransport f) := by
  obtain ⟨hcount, hvoices, hroute, himem, hibelow, hfmem, hfbelow, -⟩ := h
  exact ⟨hcount, hvoices, hroute, himem, hibelow, hfmem, hfbelow, hf⟩

/-! The instructions. -/

/-- A row rewrites registers that no bound speaks of, and the routing mask by the Instrument's (R210, R230, R250). -/
theorem StateInv.runRow {s : State} (h : StateInv s) (i : Instr) : StateInv (runRow i s) := by
  cases i with
  | wset _ _ | winc _ _ | wdec _ _ | wrsv _ _ => exact h.modVoice s.active fun _ hv => hv
  | fset _ _ _ | finc _ _ _ | fdec _ _ _ | frsv _ _ _ => exact h.withFilter _ _ _ (routeMask_lt s.build _)
  | erel _ | eabs _ | edet _ | ersv _ => exact h.withPfRaw _
  | noteOn _ _ _ _ | noteOff _ | adopt _ _ _ | silence | mute _ _ | run _ => exact h
  | crsv0 | crsv5 | crsv6 | crsv7 | crsv8 | crsv9 | crsv10 | crsv11 | crsv12 | crsv13 | crsv14 | crsv15 => exact h
  | pmwrite _ _ _ | tick => exact h

theorem StateInv.waveStep {s : State} (h : StateInv s) : StateInv (waveStep s) := by
  unfold Machine.waveStep
  split
  · exact h
  · exact (h.runRow _).modVoice _ fun _ hv => hv

theorem StateInv.filterStep {s : State} (h : StateInv s) : StateInv (filterStep s) := by
  unfold Machine.filterStep
  split
  · exact h
  · exact (h.runRow _).modVoice _ fun _ hv => hv

theorem StateInv.effectStep {s : State} (h : StateInv s) : StateInv (effectStep s) := by
  unfold Machine.effectStep
  split
  · exact h.withPfRaw _
  · exact ((h.withPfRaw _).runRow _).modVoice _ fun _ hv => hv

theorem StateInv.interpretChannel {s : State} (h : StateInv s) (c : Nat) : StateInv (interpretChannel s c) :=
  (h.withActive c).waveStep.filterStep.effectStep.modVoice _ fun _ hv => hv

theorem StateInv.interpretBelow {s : State} (h : StateInv s) (n : Nat) : StateInv (interpretBelow s n) := by
  induction n with
  | zero => exact h
  | succ n ih => exact ih.interpretChannel n

/-- Phase by phase, a TICK keeps the invariant (R290). -/
theorem StateInv.tickCmd {s : State} (h : StateInv s) : StateInv (tickCmd s) := by
  unfold Machine.tickCmd
  split
  · have hinterpreted : StateInv (interpretAll s) := ((h.interpretBelow _).withActive 0).withPfRaw 0
    have hoscillated : StateInv (oscillateAll (interpretAll s)) :=
      hinterpreted.withVoices_mapIdx fun _ _ => voiceInv_oscillate _
    have henveloped : StateInv (envelopeAll (oscillateAll (interpretAll s))) :=
      hoscillated.withVoices_map fun _ => voiceInv_envelope _
    exact (henveloped.withFState _).withSampleOut _
  · exact h.withSampleOut 0

/-- A command keeps the invariant if it does so on the channels that exist (R121). -/
theorem StateInv.onChannel {s : State} (h : StateInv s) (ch : Chan) {f : State → State} (hf : StateInv (f s)) :
    StateInv (s.onChannel ch f) := by
  unfold State.onChannel
  split
  · exact hf
  · exact h

/-- SILENCE gives every channel its reset values but for the mute bit, and routes no channel (R125). -/
theorem StateInv.silenceCmd {s : State} (h : StateInv s) : StateInv (silenceCmd s) := by
  have hvoices : StateInv (s.withVoices (s.voices.map silenceVoice)) :=
    h.withVoices_map fun _ _ => voiceInv_voiceReset s.build
  exact ((hvoices.withFilter 0 0 0 (Nat.two_pow_pos _)).withFState _).withSampleOut 0

/-- PMWRITE writes inside a space or not at all (R82, R140). -/
theorem StateInv.pmwriteCmd {s : State} (h : StateInv s) (space : Space) (addr : BitVec 24) (data : Word16) :
    StateInv (pmwriteCmd space addr data s) := by
  cases space with
  | imem =>
    simp only [Machine.pmwriteCmd]
    split
    next hinside => exact h.withImem_writeWord hinside data
    next => exact h
  | fmem =>
    simp only [Machine.pmwriteCmd]
    split
    next hinside => exact h.withFmem_writeWord hinside data
    next => exact h

/-- Every instruction keeps the invariant. -/
theorem StateInv.nextState {s : State} (h : StateInv s) (i : Instr) : StateInv (nextState i s) := by
  cases i with
  | noteOn ch note ins fx => exact h.onChannel ch (h.modVoice _ fun _ => voiceInv_noteOnVoice s note ins fx)
  | noteOff ch => exact h.onChannel ch (h.modVoice _ fun _ hv => hv)
  | adopt ch ins fx =>
    exact h.onChannel ch (h.modVoice _ fun _ hv =>
      voiceInv_adoptFx (voiceInv_adoptIns hv (s.insOk_le ins)) (s.fxOk_le fx))
  | silence => exact h.silenceCmd
  | mute ch b => exact h.onChannel ch (h.modVoice _ fun _ hv => hv)
  | run b => exact h.withRun b
  | crsv0 | crsv5 | crsv6 | crsv7 | crsv8 | crsv9 | crsv10 | crsv11 | crsv12 | crsv13 | crsv14 | crsv15 => exact h
  | pmwrite space addr data => exact h.pmwriteCmd space addr data
  | tick => exact h.tickCmd
  | wset _ _ | winc _ _ | wdec _ _ | wrsv _ _ => exact h.runRow _
  | fset _ _ _ | finc _ _ _ | fdec _ _ _ | frsv _ _ _ => exact h.runRow _
  | erel _ | eabs _ | edet _ | ersv _ => exact h.runRow _

/-! Reset and the host agent. -/

/-- The reset state of any build, over canonical memories inside their spaces (R40, R360). -/
theorem stateInv_resetOf {b : Build} {imem fmem : Memory} {song : Song} (himem : imem.wf = true)
    (hibelow : Memory.below (2 * imemWords b) imem = true) (hfmem : fmem.wf = true)
    (hfbelow : Memory.below (2 * fmemWords b) fmem = true) (hsong : SongInv song) :
    StateInv (State.resetOf b imem fmem song) := by
  refine ⟨List.length_replicate, fun v hv => ?_, Nat.two_pow_pos _, himem, hibelow, hfmem, hfbelow, hsong⟩
  obtain rfl := List.eq_of_mem_replicate hv
  exact voiceInv_voiceReset b

theorem StateInv.hardwareResetOp {s : State} (h : StateInv s) : StateInv (hardwareResetOp s) := by
  obtain ⟨-, -, -, himem, hibelow, hfmem, hfbelow, hsong⟩ := h
  exact (stateInv_resetOf himem hibelow hfmem hfbelow hsong).withPending _

theorem StateInv.playOp {s : State} (h : StateInv s) : StateInv (playOp s) := by
  unfold Machine.playOp
  split
  · exact h
  all_goals exact (h.modTransport h.songInv).issue _

theorem StateInv.pauseOp {s : State} (h : StateInv s) : StateInv (pauseOp s) := by
  unfold Machine.pauseOp
  split
  · exact (h.modTransport h.songInv).issue _
  all_goals exact h

theorem StateInv.stopOp {s : State} (h : StateInv s) : StateInv (stopOp s) :=
  (h.modTransport h.songInv).issue _

/-- ENDROW moves the transport and writes no Song (R312). -/
theorem StateInv.endRow {s : State} (h : StateInv s) : StateInv (endRow s) := by
  unfold Machine.endRow
  dsimp only
  split
  · split
    · split
      · exact h.modTransport h.songInv
      · exact h.stopOp
    · exact h.modTransport h.songInv
  · exact h.modTransport h.songInv

theorem StateInv.advanceFrameOp {s : State} (h : StateInv s) : StateInv (advanceFrameOp s) := by
  have hframe : StateInv (s.modTransport fun t => { t with frame := t.frame + 1 }) := h.modTransport h.songInv
  unfold Machine.advanceFrameOp
  dsimp only
  split
  · exact hframe.endRow
  · exact hframe

theorem StateInv.fillBufferOp {s : State} (h : StateInv s) (n : Nat) : StateInv (fillBufferOp n s) := by
  cases n with
  | zero => exact h
  | succ _ => exact h.issue _

/-- A pass of `fill_buffer` only issues events (R309). -/
theorem StateInv.sampleOp {s : State} (h : StateInv s) : StateInv (sampleOp s) := by
  unfold Machine.sampleOp
  split
  all_goals exact h.issue _

theorem StateInv.setTableOp {s : State} (h : StateInv s) (b c : Nat) (t : Byte) : StateInv (setTableOp b c t s) := by
  obtain ⟨htable, htracks⟩ := h.songInv
  unfold Machine.setTableOp
  split
  · exact h.modTransport ⟨writeByte_wf htable _ t, htracks⟩
  · exact h

theorem StateInv.setTrackRowOp {s : State} (h : StateInv s) (t r : Nat) (note ins fx : Byte) :
    StateInv (setTrackRowOp t r note ins fx s) := by
  obtain ⟨htable, htracks⟩ := h.songInv
  unfold Machine.setTrackRowOp
  split
  · exact h.modTransport ⟨htable, writeByte_wf (writeByte_wf (writeByte_wf htracks _ note) _ ins) _ fx⟩
  · exact h

/-- Every event of the host agent keeps the invariant. -/
theorem StateInv.hostEvent {s : State} (h : StateInv s) (e : Event) : StateInv (hostEvent e s) := by
  cases e with
  | command _ | pmWrite _ | tick => exact h
  | hardwareReset => exact h.hardwareResetOp
  | play => exact h.playOp
  | pause => exact h.pauseOp
  | stop => exact h.stopOp
  | seek _ | setBlockLoop _ | storeSample => exact h.modTransport h.songInv
  | setChannelActive _ _ => exact h.issue _
  | fillBuffer n => exact h.fillBufferOp n
  | sample => exact h.sampleOp
  | advanceFrame => exact h.advanceFrameOp
  | setTempo _ | setSwing _ | setTableLength _ => exact h.modTransport h.songInv
  | setTable b c t => exact h.setTableOp b c t
  | setTrackRow t r note ins fx => exact h.setTrackRowOp t r note ins fx

/-- Settles O46: a step stands still, executes an instruction or does an event of the host agent, and each of these
keeps the invariant. -/
theorem everyStepKeepsTheStateInvariant : Obligations.EveryStepKeepsTheStateInvariant := by
  unfold Obligations.EveryStepKeepsTheStateInvariant
  intro s t h hstep
  obtain ⟨-, rfl⟩ | ⟨_, rest, i, -, -, rfl⟩ | ⟨e, rest, -, -, rfl⟩ := step_cases hstep
  · exact h
  · exact (h.withPending rest).nextState i
  · exact (h.withPending rest).hostEvent e

/-- Settles O47: the reset state of REFCFG is one with nothing listed in memory. -/
theorem resetHasTheStateInvariant : Obligations.ResetHasTheStateInvariant := by
  unfold Obligations.ResetHasTheStateInvariant
  exact ⟨stateInv_resetOf rfl rfl rfl rfl ⟨rfl, rfl⟩, fun _ _ _ _ => stateInv_resetOf⟩

/-! The reset values, and what a launch accepts. -/

theorem resetOf_voice (b : Build) (imem fmem : Memory) (song : Song) (c : Nat) :
    (State.resetOf b imem fmem song).voice c = voiceReset := by
  rw [State.voice, List.getD_eq_getElem?_getD]
  exact List.getElem?_getD_replicate_default_eq _ _ c

theorem launch_of_songOk {b : Build} (imem fmem : Memory) {song : Song} (h : SongOk b song) :
    launch b imem fmem song = .next (State.resetOf b imem fmem song) := if_pos h

theorem launch_of_not_songOk {b : Build} (imem fmem : Memory) {song : Song} (h : ¬ SongOk b song) :
    launch b imem fmem song = .refused .degenerateSong := if_neg h

/-- The Song of `State.reset` has one block, and every entry of its table names no track (R313, R320). -/
theorem songOk_songReset : SongOk .reference songReset :=
  ⟨by decide, by decide, by decide, fun _ _ _ _ => Nat.zero_le _⟩

/-- Settles O48: hardware reset issues nothing, a launch tests the Song's own invariants, and the tables of R40 and R300
are the reset state's fields. -/
theorem resetGivesTheResetValues : Obligations.ResetGivesTheResetValues := by
  unfold Obligations.ResetGivesTheResetValues
  refine ⟨fun _ => presented_host_alone rfl fun _ => rfl, fun b imem fmem song => ?_,
    launch_of_songOk [] [] songOk_songReset, fun b imem fmem song => ?_⟩
  · have hok : SongOk b song ↔ song.tempo ≠ 0 ∧ _ := and_congr_left' (BitVec.pos_iff_ne_zero song.tempo)
    exact ⟨fun h => launch_of_songOk imem fmem (hok.mpr h), fun h => launch_of_not_songOk imem fmem (h ∘ hok.mp)⟩
  · exact ⟨List.length_replicate, fun c _ => resetOf_voice b imem fmem song c, rfl, rfl, rfl, rfl, rfl, rfl, rfl,
      rfl, rfl, rfl, rfl, rfl, rfl, rfl, rfl⟩

end Sys2Proof.Machine
end

/-! Steps and fetches (R75, R191 to R193): the oldest event's instruction, and the row that each interpreter's cursor
names, executed by exec. -/
section
namespace Sys2Proof.Machine

/-- Settles O6: the three kinds of the block's events by their decoders, and the step of the oldest. -/
theorem stepExecutesTheOldestEvent : Obligations.StepExecutesTheOldestEvent := by
  unfold Obligations.StepExecutesTheOldestEvent
  exact ⟨fun _ => rfl, fun _ => rfl, rfl, fun _ _ _ _ => step_instr⟩

/-! The decoders of rows yield rows of their own format (R90). -/

theorem decodeWave_source (row : Word16) : (decodeWave row).source = .wave := by
  simp only [decodeWave]
  repeat' split
  all_goals rfl

theorem decodeFilter_source (row : Word16) : (decodeFilter row).source = .filter := by
  simp only [decodeFilter]
  repeat' split
  all_goals rfl

theorem decodeEffect_source (row : Word16) : (decodeEffect row).source = .effect := by
  simp only [decodeEffect]
  repeat' split
  all_goals rfl

/-- A row runs in the context of one channel and does not leave it (R95). -/
theorem runRow_active (i : Instr) (s : State) : (runRow i s).active = s.active := by
  cases i <;> rfl

/-- FETCHSTEP's steps (3) and (4), the same for the three interpreters: exec of the row, then the cursor of the channel
that executed it (R193). -/
theorem exec_row_then_cursor {i : Instr} (hrow : i.source = .wave ∨ i.source = .filter ∨ i.source = .effect) (s : State)
    (f : Voice → Voice) : ∃ t, exec i s = .next t ∧ (runRow i s).modActive f = t.modVoice s.active f :=
  ⟨runRow i s, exec_row_eq_runRow i s hrow, by rw [State.modActive, runRow_active]⟩

/-! When an interpreter executes, and what it fetches. -/

/-- The plan of an interpreter from the index assigned to its channel, which is 0 for none, and its program's header: the
common shape of `State.wavePlan`, `State.filterPlan` and `State.effectPlan` (R191). -/
def assignedPlan (index : BitVec 8) (header : Word16) (max : Nat) (pos : BitVec 8) : Option (Nat × BitVec 8) :=
  if index = 0 then none else fetchPlan header max pos

theorem wavePlan_eq_assignedPlan (s : State) : s.wavePlan = assignedPlan s.activeVoice.curIns
    (s.insWord s.activeVoice.curIns.toNat 1) (maxInstrumentLength s.build) s.activeVoice.insPos := rfl

theorem filterPlan_eq_assignedPlan (s : State) : s.filterPlan = assignedPlan s.activeVoice.curIns
    (s.insWord s.activeVoice.curIns.toNat 3) (maxFilterLength s.build) s.activeVoice.fltPos := rfl

theorem effectPlan_eq_assignedPlan (s : State) : s.effectPlan = assignedPlan s.activeVoice.curFx
    (s.fxWord s.activeVoice.curFx.toNat 0) (maxEffectLength s.build) s.activeVoice.fxPos := rfl

/-- Nothing executes without an assigned index or with an effective length of 0 (R191). -/
theorem assignedPlan_eq_none {index : BitVec 8} {header : Word16} {max : Nat} (pos : BitVec 8)
    (h : index = 0 ∨ min (headerLength header) max = 0) : assignedPlan index header max pos = none := by
  unfold assignedPlan
  split
  next => rfl
  next hassigned => exact if_pos (h.resolve_left hassigned)

/-- Otherwise the row executed is the cursor's, re-bound to the effective loop, and the cursor moves on from it (R193). -/
theorem assignedPlan_eq_some {index : BitVec 8} {header : Word16} {max : Nat} (pos : BitVec 8) (hassigned : index ≠ 0)
    (hlen : 0 < min (headerLength header) max) :
    let lenE := effectiveLength (headerLength header) max
    let loopE := effectiveLoop lenE (headerLoop header)
    let p := fetchIndex lenE loopE pos.toNat
    assignedPlan index header max pos = some (p, BitVec.ofNat 8 (advanceIndex lenE loopE p)) :=
  (if_neg hassigned).trans (if_neg hlen.ne')

/-! Each interpreter by its plan. -/

theorem waveStep_of_no_plan {s : State} (h : s.wavePlan = none) : waveStep s = s := by
  simp only [waveStep, h]

theorem filterStep_of_no_plan {s : State} (h : s.filterPlan = none) : filterStep s = s := by
  simp only [filterStep, h]

/-- With no effect row to execute, the base note's pitch stands (R255). -/
theorem effectStep_of_no_plan {s : State} (h : s.effectPlan = none) : effectStep s = s.withPfRaw s.basePitch := by
  simp only [effectStep, h]

theorem waveStep_of_plan {s : State} {p : Nat} {next : BitVec 8} (h : s.wavePlan = some (p, next)) :
    ∃ t, exec (decodeWave (s.waveRowAt p)) s = .next t
      ∧ waveStep s = t.modVoice s.active fun u => { u with insPos := next } := by
  simp only [waveStep, h]
  exact exec_row_then_cursor (.inl (decodeWave_source _)) s _

theorem filterStep_of_plan {s : State} {p : Nat} {next : BitVec 8} (h : s.filterPlan = some (p, next)) :
    ∃ t, exec (decodeFilter (s.filterRowAt p)) s = .next t
      ∧ filterStep s = t.modVoice s.active fun u => { u with fltPos := next } := by
  simp only [filterStep, h]
  exact exec_row_then_cursor (.inr (.inl (decodeFilter_source _))) s _

/-- The effect row executes over the base note's pitch (R255). -/
theorem effectStep_of_plan {s : State} {p : Nat} {next : BitVec 8} (h : s.effectPlan = some (p, next)) :
    ∃ t, exec (decodeEffect (s.effectRowAt p)) (s.withPfRaw s.basePitch) = .next t
      ∧ effectStep s = t.modVoice s.active fun u => { u with fxPos := next } := by
  simp only [effectStep, h]
  exact exec_row_then_cursor (.inr (.inr (decodeEffect_source _))) (s.withPfRaw s.basePitch) _

/-- Settles O7: the assigned index and the header decide each interpreter's plan, and the plan its step. -/
theorem interpretersExecuteTheFetchedRow : Obligations.InterpretersExecuteTheFetchedRow := by
  unfold Obligations.InterpretersExecuteTheFetchedRow
  intro s
  exact ⟨fun hassigned hlen => waveStep_of_plan (assignedPlan_eq_some _ hassigned hlen),
    fun hnothing => waveStep_of_no_plan (assignedPlan_eq_none _ hnothing),
    fun hassigned hlen => filterStep_of_plan (assignedPlan_eq_some _ hassigned hlen),
    fun hnothing => filterStep_of_no_plan (assignedPlan_eq_none _ hnothing),
    fun hassigned hlen => effectStep_of_plan (assignedPlan_eq_some _ hassigned hlen),
    fun hnothing => effectStep_of_no_plan (assignedPlan_eq_none _ hnothing)⟩

end Sys2Proof.Machine
end

/-! What PMWRITE alone writes, and what commands alone write: every phase of a TICK and every other instruction leave the
build and the program memory, whatever the state (R81), and a running TICK leaves the registers commands own (R336). -/
section
namespace Sys2Proof.Machine

theorem SameProgram.refl (s : State) : SameProgram s s := ⟨rfl, rfl, rfl⟩

theorem SameProgram.trans {s t u : State} (h : SameProgram s t) (g : SameProgram t u) : SameProgram s u := by
  obtain ⟨hbuild, himem, hfmem⟩ := h
  obtain ⟨gbuild, gimem, gfmem⟩ := g
  exact ⟨gbuild.trans hbuild, gimem.trans himem, gfmem.trans hfmem⟩

/-- Equal memories read equal byte by byte. -/
theorem SameProgram.sameMemory {s t : State} (h : SameProgram s t) : SameMemory s t := by
  obtain ⟨-, himem, hfmem⟩ := h
  exact fun a => ⟨congrArg (readByte · a) himem, congrArg (readByte · a) hfmem⟩

theorem sameProgram_waveStep (s : State) : SameProgram s (waveStep s) := by
  obtain ⟨f, hstep, -⟩ := waveStep_spec s
  rw [hstep]
  exact sameProgram_modActive s f

theorem sameProgram_filterStep (s : State) : SameProgram s (filterStep s) := by
  obtain ⟨f, hstep, -⟩ := filterStep_spec s
  rw [hstep]
  exact (sameProgram_afterFilterRow s _ _).trans (sameProgram_modActive _ f)

theorem sameProgram_effectStep (s : State) : SameProgram s (effectStep s) := by
  obtain ⟨f, hstep, -⟩ := effectStep_spec s
  rw [hstep]
  exact sameProgram_modActive (s.withPfRaw _) f

/-- Unlike `interpretChannel_spec`, of a channel that need not exist. -/
theorem sameProgram_interpretChannel (s : State) (c : Nat) : SameProgram s (interpretChannel s c) :=
  (sameProgram_waveStep (s.withActive c)).trans <| (sameProgram_filterStep _).trans <|
    (sameProgram_effectStep _).trans (sameProgram_modActive _ _)

theorem sameProgram_interpretBelow (s : State) (n : Nat) : SameProgram s (interpretBelow s n) := by
  induction n with
  | zero => exact .refl s
  | succ n ih => exact ih.trans (sameProgram_interpretChannel _ n)

/-- The phases after the interpreters write voices, the filter's memory and the output (R290). -/
theorem sameProgram_tickCmd (s : State) : SameProgram s (tickCmd s) := by
  unfold tickCmd
  split
  · exact sameProgram_interpretBelow s (channelCount s.build)
  · exact .refl s

/-- A command for one channel leaves the program alone if it does so on the channels that exist (R121). -/
theorem sameProgram_onChannel (s : State) (ch : Chan) {f : State → State} (hf : SameProgram s (f s)) :
    SameProgram s (s.onChannel ch f) := by
  unfold State.onChannel
  split
  · exact hf
  · exact .refl s

theorem sameProgram_runRow (i : Instr) (s : State) : SameProgram s (runRow i s) := by
  cases i <;> exact ⟨rfl, rfl, rfl⟩

/-- Every instruction but PMWRITE leaves the program alone (R81). -/
theorem sameProgram_nextState {i : Instr} (hi : ∀ space addr data, i ≠ .pmwrite space addr data) (s : State) :
    SameProgram s (nextState i s) := by
  cases i with
  | pmwrite space addr data => exact absurd rfl (hi space addr data)
  | tick => exact sameProgram_tickCmd s
  | noteOn ch _ _ _ | noteOff ch | adopt ch _ _ | mute ch _ => exact sameProgram_onChannel s ch ⟨rfl, rfl, rfl⟩
  | silence | run _ => exact ⟨rfl, rfl, rfl⟩
  | crsv0 | crsv5 | crsv6 | crsv7 | crsv8 | crsv9 | crsv10 | crsv11 | crsv12 | crsv13 | crsv14 | crsv15 => exact .refl s
  | wset _ _ | winc _ _ | wdec _ _ | wrsv _ _ => exact sameProgram_runRow _ s
  | fset _ _ _ | finc _ _ _ | fdec _ _ _ | frsv _ _ _ => exact sameProgram_runRow _ s
  | erel _ | eabs _ | edet _ | ersv _ => exact sameProgram_runRow _ s

/-- Settles O44: every instruction but PMWRITE leaves the program alone, and the reset state is built around the old
memories. -/
theorem onlyPmwriteWritesProgramMemory : Obligations.OnlyPmwriteWritesProgramMemory := by
  unfold Obligations.OnlyPmwriteWritesProgramMemory
  refine ⟨fun i s hi => ⟨nextState i s, exec_eq_next i s, (sameProgram_nextState hi s).sameMemory⟩, fun s => ?_⟩
  obtain ⟨hreset, -⟩ := resetGivesTheResetValues
  exact ⟨_, hreset s, fun _ => ⟨rfl, rfl⟩⟩

/-! A running TICK. -/

theorem tickCmd_of_run {s : State} (h : s.run = true) : tickCmd s = tickRunning s := if_pos h

/-- What a running TICK leaves alone beside the channels: the phases after the interpreters write voices, the filter's
memory and the output (R290). -/
theorem tickRunning_frame {s : State} (hl : s.voices.length = channelCount s.build) :
    SameProgram s (tickRunning s) ∧ (tickRunning s).run = s.run ∧ (tickRunning s).pending = s.pending
      ∧ (tickRunning s).transport = s.transport ∧ (tickRunning s).voices.length = s.voices.length := by
  obtain ⟨hframe, -, -⟩ := interpretAll_spec s hl
  have hlength : (tickRunning s).voices.length = (interpretAll s).voices.length :=
    (List.length_map _).trans List.length_mapIdx
  exact ⟨hframe.program, hframe.run, hframe.pending, hframe.transport, hlength.trans hframe.length⟩

/-- The registers of a channel that commands alone write are as before (R336). -/
def SameCommandRegisters (v w : Voice) : Prop :=
  w.note = v.note ∧ w.curIns = v.curIns ∧ w.curFx = v.curFx ∧ w.noteGate = v.noteGate ∧ w.mute = v.mute

theorem SameCommandRegisters.trans {u v w : Voice} (h : SameCommandRegisters u v) (g : SameCommandRegisters v w) :
    SameCommandRegisters u w := by
  obtain ⟨hnote, hins, hfx, hgate, hmute⟩ := h
  obtain ⟨gnote, gins, gfx, ggate, gmute⟩ := g
  exact ⟨gnote.trans hnote, gins.trans hins, gfx.trans hfx, ggate.trans hgate, gmute.trans hmute⟩

theorem sameCommandRegisters_interpVoice (s : State) (v : Voice) : SameCommandRegisters v (interpVoice s v) := by
  obtain ⟨hnote, hins, hfx, hgate, -, -, -, -, hmute⟩ := interpVoice_frame s v
  exact ⟨hnote, hins, hfx, hgate, hmute⟩

theorem sameCommandRegisters_oscillate (w : Bool) (v : Voice) : SameCommandRegisters v (oscillate w v) :=
  ⟨rfl, rfl, rfl, rfl, rfl⟩

theorem sameCommandRegisters_envelope (b : Build) (adsr : Word16) (v : Voice) :
    SameCommandRegisters v (envelope b adsr v) :=
  ⟨rfl, rfl, rfl, rfl, rfl⟩

/-- Interpreters, oscillator and envelope one after the other (R290). -/
theorem sameCommandRegisters_tickRunning {s : State} (hl : s.voices.length = channelCount s.build) {c : Nat}
    (hc : c < channelCount s.build) : SameCommandRegisters (s.voice c) ((tickRunning s).voice c) := by
  rw [tickRunning_voice s hl c hc]
  exact (sameCommandRegisters_interpVoice s (s.voice c)).trans <|
    (sameCommandRegisters_oscillate _ _).trans (sameCommandRegisters_envelope _ _ _)

/-- Settles O38: a TICK with `run` = 1 has the frame of its interpreters, beside the channels and in each of them. -/
theorem tickLeavesCommandsAndMemoryAlone : Obligations.TickLeavesCommandsAndMemoryAlone := by
  unfold Obligations.TickLeavesCommandsAndMemoryAlone
  intro s hrun hl
  have hexec : exec .tick s = .next (tickRunning s) := by rw [exec_eq_next, nextState, tickCmd_of_run hrun]
  obtain ⟨hprogram, hrun', hpending, htransport, hlength⟩ := tickRunning_frame hl
  have hmemory := hprogram.sameMemory
  obtain ⟨hbuild, -, -⟩ := hprogram
  exact ⟨tickRunning s, hexec, hmemory, hbuild, hrun', hpending, htransport, hlength,
    fun _ => sameCommandRegisters_tickRunning hl⟩

end Sys2Proof.Machine
end

/-! The encoding (R90 to R109): what each decoder reads of a word, what each assembler writes in one, and that reserved bits
(R101) are read by none and written as 0. -/
section
namespace Sys2Proof

open Sys2Proof.Machine BitVec

/-! Flips under a mask. -/

/-- Bits flipped under a mask that misses a field leave the field as it was. -/
theorem extractLsb'_flip {n lo len : Nat} {mask : BitVec n} (w r : BitVec n) (h : mask.extractLsb' lo len = 0#len) :
    (w ^^^ (r &&& mask)).extractLsb' lo len = w.extractLsb' lo len := by
  rw [extractLsb'_xor, extractLsb'_and, h, BitVec.and_zero, BitVec.xor_zero]

/-- Bits flipped under a mask that misses a bit leave the bit as it was. -/
theorem getLsbD_flip {n i : Nat} {mask : BitVec n} (w r : BitVec n) (h : mask.getLsbD i = false) :
    (w ^^^ (r &&& mask)).getLsbD i = w.getLsbD i := by
  rw [getLsbD_xor, getLsbD_and, h, Bool.and_false, Bool.xor_false]

/-! Rows (R91 to R94): the fields of a word are the parts it is put together from. -/

theorem decodeWave_waveWord (op : BitVec 2) (value : BitVec 5) (wflags : BitVec 7) :
    decodeWave (waveWord op value wflags) =
      if op = 0 then .wset value wflags else if op = 1 then .winc value wflags
      else if op = 2 then .wdec value wflags else .wrsv value wflags := by
  simp (disch := decide) only [decodeWave, waveWord, extractLsb'_append_eq_of_le, extractLsb'_append_eq_of_add_le,
    Nat.reduceSub, Nat.sub_self, extractLsb'_eq_self]

theorem decodeFilter_filterWord (op : BitVec 2) (value : BitVec 5) (res : BitVec 4) (ftype : BitVec 3) :
    decodeFilter (filterWord op value res ftype) =
      if op = 0 then .fset value res ftype else if op = 1 then .finc value res ftype
      else if op = 2 then .fdec value res ftype else .frsv value res ftype := by
  simp (disch := decide) only [decodeFilter, filterWord, extractLsb'_append_eq_of_le, extractLsb'_append_eq_of_add_le,
    Nat.reduceSub, Nat.sub_self, extractLsb'_eq_self]

theorem decodeEffect_effectWord (op : BitVec 2) (value : BitVec 8) :
    decodeEffect (effectWord op value) =
      if op = 0 then .erel value else if op = 1 then .eabs value
      else if op = 2 then .edet value else .ersv value := by
  simp (disch := decide) only [decodeEffect, effectWord, extractLsb'_append_eq_of_le, extractLsb'_append_eq_of_add_le,
    Nat.sub_self, extractLsb'_eq_self]

theorem decodeWave_flip (w r : Word16) : decodeWave (w ^^^ (r &&& 0xC000)) = decodeWave w := by
  simp (disch := decide) only [decodeWave, extractLsb'_flip]

theorem decodeFilter_flip (w r : Word16) : decodeFilter (w ^^^ (r &&& 0x8080)) = decodeFilter w := by
  simp (disch := decide) only [decodeFilter, extractLsb'_flip]

theorem decodeEffect_flip (w r : Word16) : decodeEffect (w ^^^ (r &&& 0xFC00)) = decodeEffect w := by
  simp (disch := decide) only [decodeEffect, extractLsb'_flip]

/-! Memory-write words (R99). -/

theorem decodePmw_pmWriteWord (space : Space) (addr : BitVec 24) (data : Word16) :
    decodePmw (pmWriteWord space addr data) = .pmwrite space addr data := by
  have hspace : decodeSpace ((pmWriteWord space addr data).getLsbD 40) = space := by
    simp only [pmWriteWord, getLsbD_append]
    cases space <;> rfl
  rw [decodePmw, hspace]
  simp (disch := decide) only [pmWriteWord, extractLsb'_append_eq_of_le, extractLsb'_append_eq_of_add_le, Nat.sub_self,
    extractLsb'_eq_self]

theorem decodePmw_flip (w r : PmWord) : decodePmw (w ^^^ (r &&& 0xFE0000000000)) = decodePmw w := by
  simp (disch := decide) only [decodePmw, extractLsb'_flip, getLsbD_flip]

/-! The decoder of commands, by the opcode (R96, R97). -/

theorem decodeCommand_of_row {w : CmdWord} (h : w.extractLsb' 28 4 = 1) : decodeCommand w = decodeRowCommand w :=
  if_pos h

theorem decodeCommand_of_silence {w : CmdWord} (h : w.extractLsb' 28 4 = 2) : decodeCommand w = .silence := by
  simp [decodeCommand, h]

theorem decodeCommand_of_mute {w : CmdWord} (h : w.extractLsb' 28 4 = 3) :
    decodeCommand w = .mute (w.extractLsb' 24 4) (w.getLsbD 0) := by
  simp [decodeCommand, h]

theorem decodeCommand_of_run {w : CmdWord} (h : w.extractLsb' 28 4 = 4) : decodeCommand w = .run (w.getLsbD 0) := by
  simp [decodeCommand, h]

/-- Of a command that is not ROW, MUTE or RUN the decoder reads the opcode alone. -/
theorem decodeCommand_congr {v w : CmdWord} (h : v.extractLsb' 28 4 = w.extractLsb' 28 4)
    (hrow : w.extractLsb' 28 4 ≠ 1) (hmute : w.extractLsb' 28 4 ≠ 3) (hrun : w.extractLsb' 28 4 ≠ 4) :
    decodeCommand v = decodeCommand w := by
  simp only [decodeCommand, h, if_neg hrow, if_neg hmute, if_neg hrun]

theorem decodeRowCommand_of_noteOff {w : CmdWord} (h : w.extractLsb' 0 8 = 255) :
    decodeRowCommand w = .noteOff (w.extractLsb' 24 4) := by
  simp [decodeRowCommand, h]

/-! Flips in a command, by the opcode (R97, R98, R101). -/

theorem decodeCommand_flip_noteOff (w r : CmdWord) (hcop : w.extractLsb' 28 4 = 1) (hnote : w.extractLsb' 0 8 = 255) :
    decodeCommand (w ^^^ (r &&& 0x00FFFF00)) = decodeCommand w := by
  rw [decodeCommand_of_row hcop, decodeRowCommand_of_noteOff hnote,
    decodeCommand_of_row ((extractLsb'_flip w r rfl).trans hcop),
    decodeRowCommand_of_noteOff ((extractLsb'_flip w r rfl).trans hnote), extractLsb'_flip w r rfl]

theorem decodeCommand_flip_mute (w r : CmdWord) (hcop : w.extractLsb' 28 4 = 3) :
    decodeCommand (w ^^^ (r &&& 0x00FFFFFE)) = decodeCommand w := by
  rw [decodeCommand_of_mute hcop, decodeCommand_of_mute ((extractLsb'_flip w r rfl).trans hcop),
    extractLsb'_flip w r rfl, getLsbD_flip w r rfl]

theorem decodeCommand_flip_run (w r : CmdWord) (hcop : w.extractLsb' 28 4 = 4) :
    decodeCommand (w ^^^ (r &&& 0x0FFFFFFE)) = decodeCommand w := by
  rw [decodeCommand_of_run hcop, decodeCommand_of_run ((extractLsb'_flip w r rfl).trans hcop), getLsbD_flip w r rfl]

/-! The words of commands (R96, R97). -/

theorem commandWord_cop (cop : BitVec 4) (ch : Chan) (payload : BitVec 24) :
    (commandWord cop ch payload).extractLsb' 28 4 = cop := by
  simp (disch := decide) only [commandWord, extractLsb'_append_eq_of_le, Nat.reduceSub, Nat.sub_self,
    extractLsb'_eq_self]

theorem commandWord_channel (cop : BitVec 4) (ch : Chan) (payload : BitVec 24) :
    (commandWord cop ch payload).extractLsb' 24 4 = ch := by
  simp (disch := decide) only [commandWord, extractLsb'_append_eq_of_le, extractLsb'_append_eq_of_add_le, Nat.sub_self,
    extractLsb'_eq_self]

/-- The operand of MUTE and of RUN is bit 0 (R97). -/
theorem commandWord_bit_zero (cop : BitVec 4) (ch : Chan) (b : Bool) :
    (commandWord cop ch (0#23 ++ ofBool b)).getLsbD 0 = b := by
  simp only [commandWord, getLsbD_append]
  cases b <;> rfl

/-- The ROW command decodes by its note (R98). -/
theorem decodeCommand_rowCommandWord (ch : Chan) (note ins fx : BitVec 8) :
    decodeCommand (rowCommandWord ch note ins fx) =
      if note = 0 then .adopt ch ins fx else if note = 255 then .noteOff ch else .noteOn ch note ins fx := by
  rw [rowCommandWord, decodeCommand_of_row (commandWord_cop _ _ _), decodeRowCommand, commandWord_channel]
  simp (disch := decide) only [commandWord, extractLsb'_append_eq_of_le, extractLsb'_append_eq_of_add_le, Nat.reduceSub,
    Nat.sub_self, extractLsb'_eq_self]

theorem decodeCommand_muteCommandWord (ch : Chan) (b : Bool) : decodeCommand (muteCommandWord ch b) = .mute ch b := by
  rw [muteCommandWord, decodeCommand_of_mute (commandWord_cop _ _ _), commandWord_channel, commandWord_bit_zero]

theorem decodeCommand_runCommandWord (b : Bool) : decodeCommand (runCommandWord b) = .run b := by
  rw [runCommandWord, decodeCommand_of_run (commandWord_cop _ _ _), commandWord_bit_zero]

/-! The reserved bits of the words that the encoder writes: the mask put together like the word is 0 in each of its
operands. -/

theorem waveWord_and_reserved (op : BitVec 2) (value : BitVec 5) (wflags : BitVec 7) :
    waveWord op value wflags &&& 0xC000 = 0 := by
  change (0#2 ++ wflags ++ op ++ value) &&& (3#2 ++ 0#7 ++ 0#2 ++ 0#5) = 0#(2 + 7 + 2 + 5)
  simp only [and_append, BitVec.zero_and, BitVec.and_zero, zero_append_zero]

theorem filterWord_and_reserved (op : BitVec 2) (value : BitVec 5) (res : BitVec 4) (ftype : BitVec 3) :
    filterWord op value res ftype &&& 0x8080 = 0 := by
  change (0#1 ++ ftype ++ res ++ 0#1 ++ op ++ value) &&& (1#1 ++ 0#3 ++ 0#4 ++ 1#1 ++ 0#2 ++ 0#5)
    = 0#(1 + 3 + 4 + 1 + 2 + 5)
  simp only [and_append, BitVec.zero_and, BitVec.and_zero, zero_append_zero]

theorem effectWord_and_reserved (op : BitVec 2) (value : BitVec 8) : effectWord op value &&& 0xFC00 = 0 := by
  change (0#6 ++ op ++ value) &&& (63#6 ++ 0#2 ++ 0#8) = 0#(6 + 2 + 8)
  simp only [and_append, BitVec.zero_and, BitVec.and_zero, zero_append_zero]

theorem noteOffWord_and_reserved (ch : Chan) : rowCommandWord ch 255 0 0 &&& 0x00FFFF00 = 0 := by
  change (1#4 ++ ch ++ (0#8 ++ 0#8 ++ 255#8)) &&& (0#4 ++ 0#4 ++ (255#8 ++ 255#8 ++ 0#8)) = 0#(4 + 4 + (8 + 8 + 8))
  simp only [and_append, BitVec.zero_and, BitVec.and_zero, zero_append_zero]

theorem muteCommandWord_and_reserved (ch : Chan) (b : Bool) : muteCommandWord ch b &&& 0x00FFFFFE = 0 := by
  change (3#4 ++ ch ++ (0#23 ++ ofBool b)) &&& (0#4 ++ 0#4 ++ (0x7FFFFF#23 ++ 0#1)) = 0#(4 + 4 + (23 + 1))
  simp only [and_append, BitVec.zero_and, BitVec.and_zero, zero_append_zero]

theorem runCommandWord_and_reserved (b : Bool) : runCommandWord b &&& 0x0FFFFFFE = 0 := by
  change (4#4 ++ 0#4 ++ (0#23 ++ ofBool b)) &&& (0#4 ++ 15#4 ++ (0x7FFFFF#23 ++ 0#1)) = 0#(4 + 4 + (23 + 1))
  simp only [and_append, BitVec.zero_and, BitVec.and_zero, zero_append_zero]

theorem pmWriteWord_and_reserved (space : Space) (addr : BitVec 24) (data : Word16) :
    pmWriteWord space addr data &&& 0xFE0000000000 = 0 := by
  change (0#7 ++ spaceBit space ++ addr ++ data) &&& (127#7 ++ 0#1 ++ 0#24 ++ 0#16) = 0#(7 + 1 + 24 + 16)
  simp only [and_append, BitVec.zero_and, BitVec.and_zero, zero_append_zero]

/-! The control word (R66). -/

/-- Bits `[14:CHANNEL_COUNT]` of a control word, as a mask. -/
def controlReserved (b : Build) : Word16 := BitVec.ofNat 16 (2 ^ 15 - 2 ^ channelCount b)

theorem getLsbD_controlReserved (b : Build) (i : Nat) :
    (controlReserved b).getLsbD i = (decide (channelCount b ≤ i) && decide (i < 15)) := by
  obtain ⟨-, hcount⟩ := channelCount_bounds b
  have hsplit : 2 ^ 15 - 2 ^ channelCount b = 2 ^ channelCount b * (2 ^ (15 - channelCount b) - 1) := by
    rw [Nat.mul_sub, ← Nat.pow_add, Nat.add_sub_cancel' hcount, Nat.mul_one]
  rw [controlReserved, hsplit, getLsbD_ofNat, Nat.testBit_two_pow_mul, Nat.testBit_two_pow_sub_one]
  grind

theorem getLsbD_routeMask (b : Build) (w : Word16) (c : Nat) :
    (routeMask b w).getLsbD c = (decide (c < channelCount b) && w.getLsbD c) := by
  obtain ⟨-, hcount⟩ := channelCount_bounds b
  rw [routeMask, getLsbD_and, getLsbD_extractLsb', getLsbD_ofNat, Nat.testBit_two_pow_sub_one, Nat.zero_add]
  grind

/-- The hard-restart bit, the routing bits of the channels that exist, and nothing else. -/
theorem getLsbD_controlWord (b : Build) (hr : Bool) (route : BitVec 15) (i : Nat) :
    (controlWord b hr route).getLsbD i =
      if i < 15 then decide (i < channelCount b) && route.getLsbD i else decide (i = 15) && hr := by
  rw [controlWord, getLsbD_append, getLsbD_and, getLsbD_ofNat, Nat.testBit_two_pow_sub_one, getLsbD_ofBool]
  split
  next => grind
  next habove =>
    have htop : i - 15 = 0 ↔ i = 15 := by omega
    simp only [htop]

theorem routeMask_flip (b : Build) (w r : Word16) : routeMask b (w ^^^ (r &&& controlReserved b)) = routeMask b w := by
  refine eq_of_getLsbD_eq fun c _ => ?_
  rw [getLsbD_routeMask, getLsbD_routeMask, getLsbD_xor, getLsbD_and, getLsbD_controlReserved]
  grind

theorem hardRestart_flip (b : Build) (w r : Word16) :
    (w ^^^ (r &&& controlReserved b)).getLsbD 15 = w.getLsbD 15 :=
  getLsbD_flip w r (by rw [getLsbD_controlReserved, decide_eq_false (Nat.lt_irrefl 15), Bool.and_false])

theorem controlWord_and_reserved (b : Build) (hr : Bool) (route : BitVec 15) :
    controlWord b hr route &&& controlReserved b = 0 := by
  refine eq_of_getLsbD_eq fun i _ => ?_
  rw [getLsbD_and, getLsbD_controlWord, getLsbD_controlReserved]
  grind

theorem routeMask_controlWord (b : Build) (hr : Bool) (route : BitVec 15) (c : Nat) :
    (routeMask b (controlWord b hr route)).getLsbD c = (decide (c < channelCount b) && route.getLsbD c) := by
  obtain ⟨-, hcount⟩ := channelCount_bounds b
  rw [getLsbD_routeMask, getLsbD_controlWord]
  grind

/-! The reserved command codes (R97). -/

/-- The twelve instructions of the reserved codes. -/
def reservedCommands : List Instr :=
  [.crsv0, .crsv5, .crsv6, .crsv7, .crsv8, .crsv9, .crsv10, .crsv11, .crsv12, .crsv13, .crsv14, .crsv15]

/-- Code by code; the rest of the word is not read. -/
theorem decodeCommand_mem_reservedCommands {w : CmdWord}
    (h : w.extractLsb' 28 4 = 0 ∨ 5 ≤ (w.extractLsb' 28 4).toNat) : decodeCommand w ∈ reservedCommands := by
  have hcode : ∀ cop : BitVec 4, cop = 0 ∨ 5 ≤ cop.toNat →
      (cop ≠ 1 ∧ cop ≠ 3 ∧ cop ≠ 4) ∧ decodeCommand (commandWord cop 0 0) ∈ reservedCommands := by decide
  obtain ⟨⟨hrow, hmute, hrun⟩, hmem⟩ := hcode _ h
  rwa [← decodeCommand_congr (commandWord_cop _ 0 0) hrow hmute hrun]

theorem exec_reservedCommands {i : Instr} (h : i ∈ reservedCommands) (s : State) : exec i s = .next s := by
  fin_cases h <;> exact exec_eq_next _ s

/-! Every word of every source. -/

/-- The note of a well-formed NOTE_ON is neither ADOPT's nor NOTE_OFF's (R98). -/
theorem noteOn_wellFormed_iff (ch : Chan) (note ins fx : BitVec 8) :
    (Instr.noteOn ch note ins fx).wellFormed = true ↔ note ≠ 0 ∧ note ≠ 255 := by
  simp [Instr.wellFormed, noteArms]

theorem decodeRowCommand_spec (w : CmdWord) :
    (decodeRowCommand w).wellFormed = true ∧ (decodeRowCommand w).source = .command := by
  simp only [decodeRowCommand]
  split
  next => exact ⟨rfl, rfl⟩
  next hadopt =>
    split
    next => exact ⟨rfl, rfl⟩
    next hoff => exact ⟨(noteOn_wellFormed_iff ..).mpr ⟨hadopt, hoff⟩, rfl⟩

/-- By the opcode: ROW, SILENCE, MUTE, RUN or a reserved code (R97). -/
theorem decodeCommand_spec (w : CmdWord) :
    (decodeCommand w).wellFormed = true ∧ (decodeCommand w).source = .command := by
  have hcode : ∀ cop : BitVec 4, cop = 1 ∨ cop = 2 ∨ cop = 3 ∨ cop = 4 ∨ cop = 0 ∨ 5 ≤ cop.toNat := by decide
  have hreserved : ∀ i ∈ reservedCommands, i.wellFormed = true ∧ i.source = .command := by decide
  rcases hcode (w.extractLsb' 28 4) with h | h | h | h | h
  · rw [decodeCommand_of_row h]
    exact decodeRowCommand_spec w
  · rw [decodeCommand_of_silence h]
    exact ⟨rfl, rfl⟩
  · rw [decodeCommand_of_mute h]
    exact ⟨rfl, rfl⟩
  · rw [decodeCommand_of_run h]
    exact ⟨rfl, rfl⟩
  · exact hreserved _ (decodeCommand_mem_reservedCommands h)

theorem decodeNat_source (src : Source) (w : Nat) : (decodeNat src w).source = src := by
  cases src with
  | wave => exact decodeWave_source _
  | filter => exact decodeFilter_source _
  | effect => exact decodeEffect_source _
  | command => exact (decodeCommand_spec _).right
  | pmPort => rfl
  | strobe => rfl

/-- Well-formedness asks something of commands alone (R98). -/
theorem wellFormed_of_source_ne_command {i : Instr} (h : i.source ≠ .command) : i.wellFormed = true := by
  cases i with
  | noteOn _ _ _ _ => exact absurd rfl h
  | _ => rfl

theorem decodeNat_wellFormed (src : Source) (w : Nat) : (decodeNat src w).wellFormed = true := by
  by_cases hsrc : src = .command
  · rw [hsrc]
    exact (decodeCommand_spec _).left
  · exact wellFormed_of_source_ne_command (by rwa [decodeNat_source])

/-- Decoding an instruction's word gives the instruction back. -/
theorem decodeNat_encodeNat {i : Instr} (h : i.wellFormed = true) : decodeNat i.source (encodeNat i) = i := by
  cases i with
  | wset _ _ | winc _ _ | wdec _ _ | wrsv _ _ =>
    simp [decodeNat, encodeNat, Instr.source, decodeWave_waveWord]
  | fset _ _ _ | finc _ _ _ | fdec _ _ _ | frsv _ _ _ =>
    simp [decodeNat, encodeNat, Instr.source, decodeFilter_filterWord]
  | erel _ | eabs _ | edet _ | ersv _ =>
    simp [decodeNat, encodeNat, Instr.source, decodeEffect_effectWord]
  | noteOn ch note ins fx =>
    obtain ⟨hadopt, hoff⟩ := (noteOn_wellFormed_iff ch note ins fx).mp h
    simp only [decodeNat, encodeNat, Instr.source, ofNat_toNat, setWidth_eq, decodeCommand_rowCommandWord, if_neg hadopt,
      if_neg hoff]
  | noteOff _ | adopt _ _ _ => simp [decodeNat, encodeNat, Instr.source, decodeCommand_rowCommandWord]
  | mute ch b => simp [decodeNat, encodeNat, Instr.source, decodeCommand_muteCommandWord]
  | run b => simp [decodeNat, encodeNat, Instr.source, decodeCommand_runCommandWord]
  | silence => rfl
  | crsv0 | crsv5 | crsv6 | crsv7 | crsv8 | crsv9 | crsv10 | crsv11 | crsv12 | crsv13 | crsv14 | crsv15 => rfl
  | pmwrite space addr data => simp [decodeNat, encodeNat, Instr.source, decodePmw_pmWriteWord]
  | tick => rfl

/-- Settles O1: the bytes are read back as the word's number, and the word decodes to the instruction. -/
theorem decodeOfEncodeIsTheInstruction : Obligations.DecodeOfEncodeIsTheInstruction := by
  unfold Obligations.DecodeOfEncodeIsTheInstruction
  intro i h
  rw [decode_encode_eq, decodeNat_encodeNat h]

/-- Settles O2: by the source, and exec always answers a next state. -/
theorem everyWordDecodesAndExecutes : Obligations.EveryWordDecodesAndExecutes := by
  unfold Obligations.EveryWordDecodesAndExecutes
  intro src bytes hlen
  exact ⟨_, decode_of_length hlen, decodeNat_wellFormed src _, decodeNat_source src _, fun s => ⟨_, exec_eq_next _ s⟩⟩

/-- Settles O3: the flips word by word, then the words that the encoder and the assembler write. -/
theorem reservedBitsAreIgnored : Obligations.ReservedBitsAreIgnored := by
  unfold Obligations.ReservedBitsAreIgnored
  exact ⟨decodeWave_flip, decodeFilter_flip, decodeEffect_flip,
    decodeCommand_flip_noteOff, decodeCommand_flip_mute, decodeCommand_flip_run,
    fun w r => decodeCommand_congr (extractLsb'_flip w r rfl), decodePmw_flip,
    fun b w r => ⟨routeMask_flip b w r, hardRestart_flip b w r⟩,
    waveWord_and_reserved, filterWord_and_reserved, effectWord_and_reserved,
    noteOffWord_and_reserved, rfl, muteCommandWord_and_reserved, runCommandWord_and_reserved,
    pmWriteWord_and_reserved,
    fun b hr route => ⟨controlWord_and_reserved b hr route, getLsbD_controlWord b hr route 15,
      routeMask_controlWord b hr route⟩⟩

/-- Settles O4: the words by evaluation, their decoding by O1. -/
theorem workedEncodingsDecodeAndEncode : Obligations.WorkedEncodingsDecodeAndEncode := by
  unfold Obligations.WorkedEncodingsDecodeAndEncode
  intro p hp
  have hword : p.1.wellFormed = true ∧ encodeNat p.1 = p.2 := by
    revert p
    decide
  obtain ⟨hwf, henc⟩ := hword
  refine ⟨henc, ?_⟩
  rw [← henc]
  exact decodeOfEncodeIsTheInstruction p.1 hwf

/-- Settles O5: the note field decides. -/
theorem rowCommandDecodesByItsNote : Obligations.RowCommandDecodesByItsNote := by
  unfold Obligations.RowCommandDecodesByItsNote
  exact decodeCommand_rowCommandWord

/-- Settles O27: a word of a reserved code decodes to one of the twelve instructions, and each of them does nothing. -/
theorem reservedCommandsChangeNothing : Obligations.ReservedCommandsChangeNothing := by
  unfold Obligations.ReservedCommandsChangeNothing
  exact ⟨fun _ hcop => exec_reservedCommands (decodeCommand_mem_reservedCommands hcop),
    fun s _ hi => exec_reservedCommands hi s⟩

end Sys2Proof
end

/-! The ROW commands, MUTE and RUN (R121 to R127), SILENCE (R125) and PMWRITE (R140): what each writes and what it leaves
alone. A command for one channel is an update of that channel's registers, guarded by the test of its channel field. -/
section
namespace Sys2Proof.Machine

/-- All a command for one channel can do (R103, R121). -/
theorem onChannel_modVoice_spec (ch : Chan) (s : State) (f : State → Voice → Voice) :
    let t := s.onChannel ch fun u => u.modVoice ch.toNat (f u)
    (channelCount s.build ≤ ch.toNat → t = s)
      ∧ (ch.toNat < channelCount s.build → ch.toNat < s.voices.length →
          t.voice ch.toNat = f s (s.voice ch.toNat))
      ∧ OneVoiceFrame ch.toNat s t := by
  refine ⟨fun h => onChannel_missing s ch _ h, fun h hlen => ?_, oneVoiceFrame_onChannel ch s f⟩
  rw [onChannel_existing s ch _ h, State.voice_modVoice_same s ch.toNat (f s) hlen]

/-! Index fields (R121). -/

theorem resolveIndex_of_mem {count : Nat} {i : BitVec 8} (h : 1 ≤ i.toNat ∧ i.toNat ≤ count) :
    resolveIndex count i = i := if_pos h

/-- NOTE_ON takes an index in its range and keeps the held one otherwise (R122). -/
theorem takeIndex_resolveIndex (count : Nat) (i held : BitVec 8) :
    takeIndex (resolveIndex count i) held = if 1 ≤ i.toNat ∧ i.toNat ≤ count then i else held := by
  unfold takeIndex
  rw [if_congr (resolveIndex_ne_zero count i) rfl rfl]
  split
  next hrange => exact resolveIndex_of_mem hrange
  next => rfl

/-- ADOPT's test of the instrument, register by register (R124). -/
theorem adoptIns_resolveIndex (count : Nat) (i : BitVec 8) (v : Voice) :
    let takes := (1 ≤ i.toNat ∧ i.toNat ≤ count) ∧ v.curIns = 0
    adoptIns (resolveIndex count i) v =
      { v with
        curIns := if takes then i else v.curIns
        insPos := if takes then 0 else v.insPos
        fltPos := if takes then 0 else v.fltPos } := by
  intro takes
  have htakes : (resolveIndex count i ≠ 0 ∧ v.curIns = 0) ↔ takes := and_congr_left' (resolveIndex_ne_zero count i)
  by_cases h : takes
  · rw [adoptIns, if_pos (htakes.mpr h), resolveIndex_of_mem h.1]
    simp only [if_pos h]
  · simp only [adoptIns, if_neg (mt htakes.mp h), if_neg h]

/-- ADOPT's test of the effect, register by register (R124). -/
theorem adoptFx_resolveIndex (count : Nat) (i : BitVec 8) (v : Voice) :
    let takes := (1 ≤ i.toNat ∧ i.toNat ≤ count) ∧ v.curFx = 0
    adoptFx (resolveIndex count i) v =
      { v with
        curFx := if takes then i else v.curFx
        fxPos := if takes then 0 else v.fxPos } := by
  intro takes
  have htakes : (resolveIndex count i ≠ 0 ∧ v.curFx = 0) ↔ takes := and_congr_left' (resolveIndex_ne_zero count i)
  by_cases h : takes
  · rw [adoptFx, if_pos (htakes.mpr h), resolveIndex_of_mem h.1]
    simp only [if_pos h]
  · simp only [adoptFx, if_neg (mt htakes.mp h), if_neg h]

/-! NOTE_ON's restart (R122 step 4). -/

theorem restartBit_iff (s : State) (v : Voice) :
    s.restartBit v = true ↔ v.curIns ≠ 0 ∧ (s.insWord v.curIns.toNat 2).getLsbD 15 = true := by
  simp [State.restartBit, State.hardRestart]

/-- The hard-restart bit is read of the Instrument assigned by this very command, and arming leaves the stage alone. -/
theorem noteOnVoice_eq (s : State) (note insOk fxOk : BitVec 8) (v : Voice) :
    let newIns := takeIndex insOk v.curIns
    let restart := (newIns ≠ 0 ∧ (s.insWord newIns.toNat 2).getLsbD 15 = true) ∨ v.envStage = .idle
    s.noteOnVoice note insOk fxOk v =
      { armVoice note insOk fxOk v with
        phase := if restart then 0 else v.phase
        envAcc := if restart then 0 else v.envAcc
        envStage := if restart then .idle else v.envStage } := by
  intro newIns restart
  have hrestart : (s.restartBit (armVoice note insOk fxOk v) = true ∨ (armVoice note insOk fxOk v).envStage = .idle)
      ↔ restart := or_congr_left (restartBit_iff s _)
  by_cases h : restart
  · simp only [State.noteOnVoice, if_pos (hrestart.mpr h), if_pos h, restartVoice]
  · simp only [State.noteOnVoice, if_neg (mt hrestart.mp h), if_neg h]
    rfl

/-- Settles O21: NOTE_ON is the update of its channel by `noteOnVoice`. -/
theorem noteOnArmsTheVoice : Obligations.NoteOnArmsTheVoice := by
  unfold Obligations.NoteOnArmsTheVoice
  intro ch note ins fx s _ _
  obtain ⟨hmissing, hvoice, hframe⟩ :=
    onChannel_modVoice_spec ch s fun u => u.noteOnVoice note (u.insOk ins) (u.fxOk fx)
  refine ⟨_, exec_eq_next _ s, hmissing, fun hch hlen => (hvoice hch hlen).trans ?_, hframe⟩
  simp only [noteOnVoice_eq, armVoice, State.insOk, State.fxOk, takeIndex_resolveIndex]

/-- Settles O22: NOTE_OFF is the update of its channel's gate. -/
theorem noteOffClearsTheGateAlone : Obligations.NoteOffClearsTheGateAlone := by
  unfold Obligations.NoteOffClearsTheGateAlone
  intro ch s
  exact ⟨_, exec_eq_next _ s, onChannel_modVoice_spec ch s fun _ v => { v with noteGate := false }⟩

/-- Settles O23: ADOPT is the update of its channel by the two tests, neither of which reads what the other writes. -/
theorem adoptTakesOnlyWhatIsUnassigned : Obligations.AdoptTakesOnlyWhatIsUnassigned := by
  unfold Obligations.AdoptTakesOnlyWhatIsUnassigned
  intro ch ins fx s
  obtain ⟨hmissing, hvoice, hframe⟩ :=
    onChannel_modVoice_spec ch s fun u v => adoptFx (u.fxOk fx) (adoptIns (u.insOk ins) v)
  refine ⟨_, exec_eq_next _ s, hmissing, fun hch hlen => (hvoice hch hlen).trans ?_, hframe⟩
  simp only [State.insOk, State.fxOk, adoptIns_resolveIndex, adoptFx_resolveIndex]

/-! SILENCE. -/

theorem silenceCmd_voice (s : State) {c : Nat} (hc : c < s.voices.length) :
    (silenceCmd s).voice c = silenceVoice (s.voice c) := by
  simp [silenceCmd, State.voice, List.getD_eq_getElem?_getD, hc]

/-- Settles O24: SILENCE rewrites every voice, the filter and the output, each by a write of its own. -/
theorem silenceResetsAllButRunMuteAndMemory : Obligations.SilenceResetsAllButRunMuteAndMemory := by
  unfold Obligations.SilenceResetsAllButRunMuteAndMemory
  intro s
  exact ⟨silenceCmd s, exec_eq_next .silence s, List.length_map _, fun _ hc => silenceCmd_voice s hc,
    rfl, rfl, rfl, rfl, rfl, rfl, ⟨rfl, rfl, rfl, rfl, rfl, rfl⟩, fun _ => ⟨rfl, rfl⟩⟩

/-! MUTE and the host's read of it (R141). -/

theorem isChannelActive_missing {s : State} {c : Nat} (h : channelCount s.build ≤ c) : isChannelActive s c = true := by
  simp [isChannelActive, readMute, Nat.not_lt_of_le h]

theorem isChannelActive_existing {s : State} {c : Nat} (h : c < channelCount s.build) :
    isChannelActive s c = !(s.voice c).mute := by
  simp [isChannelActive, readMute, h]

/-- `set_channel_active` issues one MUTE word (R306). -/
theorem presented_setChannelActive (ch : Chan) (a : Bool) (s : State) :
    Presented (.setChannelActive ch a) s (nextState (.mute ch (!a)) s) :=
  presented_host (es := [.command (muteCommandWord ch (!a))]) rfl (fun _ => rfl)
    (presented_instr s (congrArg some (decodeCommand_muteCommandWord ch (!a))))

/-- Settles O25: MUTE is the update of its channel's mute bit, and the host reads that bit of a channel that exists. -/
theorem muteWritesOneBit : Obligations.MuteWritesOneBit := by
  unfold Obligations.MuteWritesOneBit
  refine ⟨fun ch b s => ?_, fun ch a s => ⟨_, exec_eq_next _ s, presented_setChannelActive ch a s⟩⟩
  obtain ⟨hmissing, hvoice, hframe⟩ := onChannel_modVoice_spec ch s fun _ v => { v with mute := b }
  refine ⟨muteCmd ch b s, exec_eq_next _ s, fun h => ?_, fun hch hlen => ?_, hframe⟩
  · have hsame : muteCmd ch b s = s := hmissing h
    exact ⟨hsame, by rw [hsame, isChannelActive_missing h]⟩
  · have hwritten : (muteCmd ch b s).voice ch.toNat = { s.voice ch.toNat with mute := b } := hvoice hch hlen
    obtain ⟨-, -, ⟨hbuild, -⟩, -⟩ := hframe
    exact ⟨hwritten, by rw [isChannelActive_existing (hbuild.symm ▸ hch), hwritten]⟩

/-- Settles O26: RUN is the write of one register. -/
theorem runWritesTheRunRegister : Obligations.RunWritesTheRunRegister := by
  unfold Obligations.RunWritesTheRunRegister
  intro b s
  exact ⟨s.withRun b, exec_eq_next (.run b) s, rfl, rfl, ⟨rfl, fun _ => rfl⟩, ⟨rfl, rfl, rfl, rfl, rfl⟩,
    rfl, rfl, rfl, rfl, rfl, rfl, fun _ => ⟨rfl, rfl⟩⟩

/-! PMWRITE. -/

/-- A word write leaves every byte but its own two (R61, R70). -/
theorem readByte_writeWord_other {a k : Nat} (hlow : k ≠ 2 * a) (hhigh : k ≠ 2 * a + 1) (m : Memory) (w : Word16) :
    readByte (writeWord m a w) k = readByte m k := by
  rw [writeWord, readByte_writeByte_other hhigh, readByte_writeByte_other hlow]

theorem pmwriteCmd_imem {addr : BitVec 24} {s : State} (data : Word16) (h : addr.toNat < imemWords s.build) :
    pmwriteCmd .imem addr data s = s.withImem (writeWord s.imem addr.toNat data) := if_pos h

theorem pmwriteCmd_fmem {addr : BitVec 24} {s : State} (data : Word16) (h : addr.toNat < fmemWords s.build) :
    pmwriteCmd .fmem addr data s = s.withFmem (writeWord s.fmem addr.toNat data) := if_pos h

/-- At or beyond the end of its space a write does nothing (R82). -/
theorem pmwriteCmd_outside {space : Space} {addr : BitVec 24} {s : State} (data : Word16)
    (h : ¬ addr.toNat < (match space with | .imem => imemWords s.build | .fmem => fmemWords s.build)) :
    pmwriteCmd space addr data s = s := by
  cases space <;> exact if_neg h

/-- Beside the program memory PMWRITE writes nothing. -/
theorem pmwriteCmd_frame (space : Space) (addr : BitVec 24) (data : Word16) (s : State) :
    let t := pmwriteCmd space addr data s
    SameVoices s t ∧ SameFilter s t ∧ SameRest s t ∧ t.sampleOut = s.sampleOut := by
  cases space <;> dsimp only [pmwriteCmd] <;> split <;>
    exact ⟨⟨rfl, fun _ => rfl⟩, ⟨rfl, rfl, rfl, rfl, rfl⟩, ⟨rfl, rfl, rfl, rfl, rfl, rfl⟩, rfl⟩

/-- Settles O28: PMWRITE is a word write to the one space or nothing. -/
theorem pmwriteWritesOneWord : Obligations.PmwriteWritesOneWord := by
  unfold Obligations.PmwriteWritesOneWord
  intro space addr data s himem hfmem a inside
  have hframe := pmwriteCmd_frame space addr data s
  refine ⟨pmwriteCmd space addr data s, exec_eq_next _ s, pmwriteCmd_outside data, ?_⟩
  by_cases h : inside
  · cases space with
    | imem =>
      rw [pmwriteCmd_imem data h] at hframe ⊢
      refine ⟨fun _ => readWord_writeWord_same himem a data, fun k hk => ?_, fun _ _ => rfl, writeWord_wf himem a data,
        hfmem, hframe⟩
      obtain ⟨hlow, hhigh⟩ := hk.resolve_left Space.noConfusion
      exact readByte_writeWord_other hlow hhigh s.imem data
    | fmem =>
      rw [pmwriteCmd_fmem data h] at hframe ⊢
      refine ⟨fun _ => readWord_writeWord_same hfmem a data, fun _ _ => rfl, fun k hk => ?_, himem,
        writeWord_wf hfmem a data, hframe⟩
      obtain ⟨hlow, hhigh⟩ := hk.resolve_left Space.noConfusion
      exact readByte_writeWord_other hlow hhigh s.fmem data
  · rw [pmwriteCmd_outside data h] at hframe ⊢
    exact ⟨fun hin => absurd hin h, fun _ _ => rfl, fun _ _ => rfl, himem, hfmem, hframe⟩

end Sys2Proof.Machine
end

/-! A pause (R127, R291): strobes while the machine is stopped write the output register and nothing else. -/
section
namespace Sys2Proof.Machine

theorem tickCmd_of_stopped {s : State} (h : s.run = false) : tickCmd s = s.withSampleOut 0 := by
  simp [tickCmd, h]

theorem presented_tick_of_stopped {s : State} (h : s.run = false) : Presented .tick s (s.withSampleOut 0) :=
  tickCmd_of_stopped h ▸ presented_instr (i := .tick) s rfl

/-- The first strobe clears the output register, and every further one finds the state it leaves. -/
theorem applied_ticks_of_stopped {s : State} (hrun : s.run = false) (k : Nat) :
    Applied (List.replicate (k + 1) .tick) s (s.withSampleOut 0) := by
  induction k generalizing s with
  | zero => exact presented_tick_of_stopped hrun
  | succ k ih => exact applied_cons (presented_tick_of_stopped hrun) (ih (s := s.withSampleOut 0) hrun)

theorem presented_runCommandWord (b : Bool) (s : State) : Presented (.command (runCommandWord b)) s (s.withRun b) :=
  presented_instr (i := .run b) s (congrArg some (decodeCommand_runCommandWord b))

/-- With nothing waiting behind them, events that are applied drain the queue. -/
theorem drains_of_applied {es : List Event} {s t : State} (h : Applied es s t) :
    Drains (s.withPending es) (t.withPending []) := by
  obtain ⟨k, hk⟩ := h []
  rw [List.append_nil] at hk
  exact ⟨rfl, k, hk⟩

/-- Settles O54: RUN 0, the strobes of a stopped machine, RUN 1. -/
theorem pauseResumesWhereItStood : Obligations.PauseResumesWhereItStood := by
  unfold Obligations.PauseResumesWhereItStood
  intro s k
  have hstrobes : Applied (List.replicate (k + 1) .tick) (s.withRun false) ((s.withRun false).withSampleOut 0) :=
    applied_ticks_of_stopped rfl k
  exact drains_of_applied <| applied_cons (presented_runCommandWord false s) <|
    applied_append hstrobes (presented_runCommandWord true _)

end Sys2Proof.Machine
end

/-! What a mute reaches (R126, R374). Erasing the mute bits, the filter's memory and the output commutes with everything an
instruction does but the three writes that are erased themselves: MUTE's, the filter's step and the output register's. -/
section
namespace Sys2Proof.Machine

/-- A voice without its mute bit: what `State.eraseMute` keeps of it (`State.voice_eraseMute`). -/
def unmuted (v : Voice) : Voice := { v with mute := false }

theorem State.eraseMute_eraseMute (s : State) : s.eraseMute.eraseMute = s.eraseMute := by
  simp [State.eraseMute]

theorem State.voice_eraseMute (s : State) (c : Nat) : s.eraseMute.voice c = unmuted (s.voice c) := by
  simp only [State.voice, State.eraseMute, List.getD_eq_getElem?_getD, List.getElem?_map]
  cases s.voices[c]? <;> rfl

theorem State.activeVoice_eraseMute (s : State) : s.eraseMute.activeVoice = unmuted s.activeVoice :=
  s.voice_eraseMute s.active

/-- An update of one place before a map is another update of that place after it, if the two agree through the map. -/
theorem map_modify {g f f' : Voice → Voice} (h : ∀ v, g (f v) = f' (g v)) (l : List Voice) (c : Nat) :
    (l.modify c f).map g = (l.map g).modify c f' := by
  apply List.ext_getElem?
  intro d
  rw [List.getElem?_map, List.getElem?_modify, List.getElem?_modify, List.getElem?_map]
  cases l[d]? with
  | none => rfl
  | some v => by_cases hd : c = d <;> simp [hd, h v]

/-- An update that neither reads nor writes the mute bit commutes with its erasure. -/
theorem State.modVoice_eraseMute (s : State) (c : Nat) {f : Voice → Voice} (hf : ∀ v, unmuted (f v) = f (unmuted v)) :
    s.eraseMute.modVoice c f = (s.modVoice c f).eraseMute :=
  congrArg s.eraseMute.withVoices (map_modify hf s.voices c).symm

/-- A write of the mute bit is erased. -/
theorem State.eraseMute_modVoice_mute (s : State) (c : Nat) (b : Bool) :
    (s.modVoice c fun v => { v with mute := b }).eraseMute = s.eraseMute := by
  have hvoices : (s.voices.modify c fun v => { v with mute := b }).map unmuted = (s.voices.map unmuted).modify c id :=
    map_modify (by intro v; rfl) s.voices c
  rw [List.modify_id] at hvoices
  exact congrArg s.eraseMute.withVoices hvoices

/-! The phases of a TICK. -/

theorem runRow_eraseMute (i : Instr) (s : State) : runRow i s.eraseMute = (runRow i s).eraseMute := by
  cases i with
  | wset _ _ | winc _ _ | wdec _ _ | wrsv _ _ => exact s.modVoice_eraseMute s.active fun _ => rfl
  | fset _ _ _ | finc _ _ _ | fdec _ _ _ | frsv _ _ _ =>
    simp only [runRow, fsetRow, fincRow, fdecRow, frsvRow, filterRow, s.activeVoice_eraseMute]
    rfl
  | erel _ | eabs _ | edet _ | ersv _ =>
    simp only [runRow, erelRow, eabsRow, edetRow, ersvRow, State.basePitch, s.activeVoice_eraseMute]
    rfl
  | noteOn _ _ _ _ | noteOff _ | adopt _ _ _ | silence | mute _ _ | run _ => rfl
  | crsv0 | crsv5 | crsv6 | crsv7 | crsv8 | crsv9 | crsv10 | crsv11 | crsv12 | crsv13 | crsv14 | crsv15 => rfl
  | pmwrite _ _ _ | tick => rfl

/-- A row and then its interpreter's cursor, which is no mute bit. -/
theorem runRow_then_cursor_eraseMute (i : Instr) (s : State) {f : Voice → Voice}
    (hf : ∀ v, unmuted (f v) = f (unmuted v)) :
    (runRow i s.eraseMute).modActive f = ((runRow i s).modActive f).eraseMute := by
  rw [runRow_eraseMute]
  exact (runRow i s).modVoice_eraseMute _ hf

theorem waveStep_eraseMute (s : State) : waveStep s.eraseMute = (waveStep s).eraseMute := by
  have hplan : s.eraseMute.wavePlan = s.wavePlan := by
    rw [wavePlan_eq_assignedPlan, s.activeVoice_eraseMute]
    rfl
  have hrow : s.eraseMute.waveRowAt = s.waveRowAt := by
    unfold State.waveRowAt
    rw [s.activeVoice_eraseMute]
    rfl
  unfold waveStep
  rw [hplan, hrow]
  cases s.wavePlan with
  | none => rfl
  | some pn => exact runRow_then_cursor_eraseMute _ s fun _ => rfl

theorem filterStep_eraseMute (s : State) : filterStep s.eraseMute = (filterStep s).eraseMute := by
  have hplan : s.eraseMute.filterPlan = s.filterPlan := by
    rw [filterPlan_eq_assignedPlan, s.activeVoice_eraseMute]
    rfl
  have hrow : s.eraseMute.filterRowAt = s.filterRowAt := by
    unfold State.filterRowAt
    rw [s.activeVoice_eraseMute]
    rfl
  unfold filterStep
  rw [hplan, hrow]
  cases s.filterPlan with
  | none => rfl
  | some pn => exact runRow_then_cursor_eraseMute _ s fun _ => rfl

theorem effectStep_eraseMute (s : State) : effectStep s.eraseMute = (effectStep s).eraseMute := by
  have hplan : s.eraseMute.effectPlan = s.effectPlan := by
    rw [effectPlan_eq_assignedPlan, s.activeVoice_eraseMute]
    rfl
  have hrow : s.eraseMute.effectRowAt = s.effectRowAt := by
    unfold State.effectRowAt
    rw [s.activeVoice_eraseMute]
    rfl
  have hbase : s.eraseMute.basePitch = s.basePitch := by
    unfold State.basePitch
    rw [s.activeVoice_eraseMute]
    rfl
  unfold effectStep
  rw [hplan, hrow, hbase]
  cases s.effectPlan with
  | none => rfl
  | some pn => exact runRow_then_cursor_eraseMute _ (s.withPfRaw s.basePitch) fun _ => rfl

theorem interpretChannel_eraseMute (s : State) (c : Nat) :
    interpretChannel s.eraseMute c = (interpretChannel s c).eraseMute := by
  unfold interpretChannel
  rw [show s.eraseMute.withActive c = (s.withActive c).eraseMute from rfl, waveStep_eraseMute, filterStep_eraseMute,
    effectStep_eraseMute]
  exact State.modVoice_eraseMute _ _ fun _ => rfl

theorem interpretBelow_eraseMute (s : State) (n : Nat) : interpretBelow s.eraseMute n = (interpretBelow s n).eraseMute := by
  induction n with
  | zero => rfl
  | succ n ih => rw [interpretBelow, ih, interpretChannel_eraseMute, interpretBelow]

theorem interpretAll_eraseMute (s : State) : interpretAll s.eraseMute = (interpretAll s).eraseMute := by
  unfold interpretAll
  rw [interpretBelow_eraseMute]
  rfl

theorem oscillateAll_eraseMute (s : State) : oscillateAll s.eraseMute = (oscillateAll s).eraseMute := by
  have hvoices : (s.voices.map unmuted).mapIdx
        (fun c v => oscillate (phaseWrap (s.eraseMute.voice (neighbour s.build c))) v)
      = (s.voices.mapIdx fun c v => oscillate (phaseWrap (s.voice (neighbour s.build c))) v).map unmuted := by
    apply List.ext_getElem?
    intro c
    simp only [List.getElem?_mapIdx, List.getElem?_map, Option.map_map, s.voice_eraseMute]
    rfl
  exact congrArg s.eraseMute.withVoices hvoices

theorem envelopeAll_eraseMute (s : State) : envelopeAll s.eraseMute = (envelopeAll s).eraseMute := by
  have hvoices : (s.voices.map unmuted).map (fun v => envelope s.build (s.adsr v) v)
      = (s.voices.map fun v => envelope s.build (s.adsr v) v).map unmuted := by
    simp only [List.map_map]
    rfl
  exact congrArg s.eraseMute.withVoices hvoices

/-- Of the mix, the mute bits reach the filter's memory and the output register alone (R271, R280 to R282). -/
theorem eraseMute_mixOut (s : State) (out : Nat → Int) : (mixOut s out).eraseMute = s.eraseMute := rfl

theorem tickCmd_eraseMute (s : State) : (tickCmd s.eraseMute).eraseMute = (tickCmd s).eraseMute := by
  unfold tickCmd
  rw [show s.eraseMute.run = s.run from rfl]
  split
  · unfold tickRunning
    dsimp only
    rw [eraseMute_mixOut, eraseMute_mixOut, interpretAll_eraseMute, oscillateAll_eraseMute, envelopeAll_eraseMute,
      State.eraseMute_eraseMute]
  · exact s.eraseMute_eraseMute

/-! The commands. -/

/-- A command for one channel does what it does on the channels that exist. -/
theorem onChannel_eraseMute (s : State) (ch : Chan) {f : State → State}
    (hf : (f s.eraseMute).eraseMute = (f s).eraseMute) :
    (s.eraseMute.onChannel ch f).eraseMute = (s.onChannel ch f).eraseMute := by
  unfold State.onChannel
  rw [show s.eraseMute.hasChannel ch = s.hasChannel ch from rfl]
  split
  · exact hf
  · exact s.eraseMute_eraseMute

theorem eraseMute_modVoice_eraseMute (s : State) (c : Nat) {f : Voice → Voice}
    (hf : ∀ v, unmuted (f v) = f (unmuted v)) : (s.eraseMute.modVoice c f).eraseMute = (s.modVoice c f).eraseMute := by
  rw [s.modVoice_eraseMute c hf, State.eraseMute_eraseMute]

theorem noteOnVoice_unmuted (s : State) (note insOk fxOk : BitVec 8) (v : Voice) :
    unmuted (s.noteOnVoice note insOk fxOk v) = s.noteOnVoice note insOk fxOk (unmuted v) := by
  rw [noteOnVoice_eq, noteOnVoice_eq]
  rfl

theorem adoptIns_unmuted (insOk : BitVec 8) (v : Voice) : unmuted (adoptIns insOk v) = adoptIns insOk (unmuted v) := by
  unfold adoptIns
  rw [show (unmuted v).curIns = v.curIns from rfl]
  split <;> rfl

theorem adoptFx_unmuted (fxOk : BitVec 8) (v : Voice) : unmuted (adoptFx fxOk v) = adoptFx fxOk (unmuted v) := by
  unfold adoptFx
  rw [show (unmuted v).curFx = v.curFx from rfl]
  split <;> rfl

theorem silenceCmd_eraseMute (s : State) : (silenceCmd s.eraseMute).eraseMute = (silenceCmd s).eraseMute := by
  have hvoices : ((s.voices.map unmuted).map silenceVoice).map unmuted = (s.voices.map silenceVoice).map unmuted := by
    simp only [List.map_map]
    rfl
  exact congrArg (silenceCmd s).eraseMute.withVoices hvoices

theorem pmwriteCmd_eraseMute (space : Space) (addr : BitVec 24) (data : Word16) (s : State) :
    pmwriteCmd space addr data s.eraseMute = (pmwriteCmd space addr data s).eraseMute := by
  cases space with
  | imem =>
    simp only [pmwriteCmd, show s.eraseMute.build = s.build from rfl]
    split <;> rfl
  | fmem =>
    simp only [pmwriteCmd, show s.eraseMute.build = s.build from rfl]
    split <;> rfl

/-- What an instruction leaves, but for what a mute can reach, is a function of the state but for what a mute can reach
(R374). -/
theorem nextState_eraseMute (i : Instr) (s : State) : (nextState i s.eraseMute).eraseMute = (nextState i s).eraseMute := by
  cases i with
  | noteOn ch note ins fx =>
    exact onChannel_eraseMute s ch (eraseMute_modVoice_eraseMute s _ (noteOnVoice_unmuted s note _ _))
  | noteOff ch => exact onChannel_eraseMute s ch (eraseMute_modVoice_eraseMute s _ fun _ => rfl)
  | adopt ch ins fx =>
    exact onChannel_eraseMute s ch (eraseMute_modVoice_eraseMute s _ fun v =>
      (adoptFx_unmuted _ _).trans (congrArg _ (adoptIns_unmuted _ v)))
  | mute ch b =>
    refine onChannel_eraseMute s ch ?_
    rw [State.eraseMute_modVoice_mute, State.eraseMute_modVoice_mute, State.eraseMute_eraseMute]
  | silence => exact silenceCmd_eraseMute s
  | run b => exact (s.withRun b).eraseMute_eraseMute
  | crsv0 | crsv5 | crsv6 | crsv7 | crsv8 | crsv9 | crsv10 | crsv11 | crsv12 | crsv13 | crsv14 | crsv15 =>
    exact s.eraseMute_eraseMute
  | pmwrite space addr data =>
    rw [nextState, pmwriteCmd_eraseMute, State.eraseMute_eraseMute]
    rfl
  | tick => exact tickCmd_eraseMute s
  | wset _ _ | winc _ _ | wdec _ _ | wrsv _ _ =>
    rw [nextState, runRow_eraseMute, State.eraseMute_eraseMute]
    rfl
  | fset _ _ _ | finc _ _ _ | fdec _ _ _ | frsv _ _ _ =>
    rw [nextState, runRow_eraseMute, State.eraseMute_eraseMute]
    rfl
  | erel _ | eabs _ | edet _ | ersv _ =>
    rw [nextState, runRow_eraseMute, State.eraseMute_eraseMute]
    rfl

/-- Settles O45: both next states are, but for what a mute can reach, the next state of the one erased state. -/
theorem mutesReachOnlyFilterMemoryAndOutput : Obligations.MutesReachOnlyFilterMemoryAndOutput := by
  unfold Obligations.MutesReachOnlyFilterMemoryAndOutput
  intro i s s' h
  refine ⟨nextState i s, nextState i s', exec_eq_next i s, exec_eq_next i s', ?_⟩
  calc (nextState i s).eraseMute
      = (nextState i s.eraseMute).eraseMute := (nextState_eraseMute i s).symm
    _ = (nextState i s'.eraseMute).eraseMute := by rw [h]
    _ = (nextState i s').eraseMute := nextState_eraseMute i s'

end Sys2Proof.Machine
end

/-! A TICK of silenced voices (R125, R158, R160, R274): released, idle and at level 0, they stay so whatever the oscillators
do, and the filter in its initial state answers their sum, 0, by 0. -/
section
namespace Sys2Proof.Machine

/-- A voice with nothing assigned, whose gate is off and whose envelope is at its start. -/
def IsSilent (v : Voice) : Prop :=
  v.curIns = 0 ∧ v.curFx = 0 ∧ v.noteGate = false ∧ v.envStage = .idle ∧ v.envAcc = 0

theorem isSilent_voiceReset : IsSilent voiceReset := ⟨rfl, rfl, rfl, rfl, rfl⟩

/-- Every voice is silent and the filter is in its initial state: what SILENCE leaves (`isSilenced_silenceCmd`). -/
structure IsSilenced (s : State) : Prop where
  voices : ∀ v ∈ s.voices, IsSilent v
  fState : s.fState = filterInit s.build

theorem IsSilenced.voice {s : State} (h : IsSilenced s) (c : Nat) : IsSilent (s.voice c) := by
  by_cases hc : c < s.voices.length
  · exact h.voices _ (s.voice_mem c hc)
  · rw [s.voice_missing c (Nat.le_of_not_lt hc)]
    exact isSilent_voiceReset

theorem isSilenced_silenceCmd (s : State) : IsSilenced (silenceCmd s) where
  voices v hv := by
    obtain ⟨u, -, rfl⟩ := List.mem_map.mp hv
    exact isSilent_voiceReset
  fState := rfl

/-- With nothing assigned a channel's interpreters execute no row, and the pitch path alone writes (R191, R255). -/
theorem interpretChannel_of_unassigned {s : State} {c : Nat} (hins : (s.voice c).curIns = 0)
    (hfx : (s.voice c).curFx = 0) :
    interpretChannel s c = pitchPath ((s.withActive c).withPfRaw (s.withActive c).basePitch) := by
  have hwave : (s.withActive c).wavePlan = none := assignedPlan_eq_none _ (.inl hins)
  have hfilter : (s.withActive c).filterPlan = none := assignedPlan_eq_none _ (.inl hins)
  have heffect : (s.withActive c).effectPlan = none := assignedPlan_eq_none _ (.inl hfx)
  rw [interpretChannel, waveStep_of_no_plan hwave, filterStep_of_no_plan hfilter, effectStep_of_no_plan heffect]

/-- One channel rewritten by an update that keeps silence. -/
theorem IsSilenced.modVoice {s : State} (h : IsSilenced s) (c : Nat) {f : Voice → Voice}
    (hf : ∀ v, IsSilent v → IsSilent (f v)) : IsSilenced (s.modVoice c f) := by
  refine ⟨fun w hw => ?_, h.fState⟩
  obtain ⟨d, hd, rfl⟩ := List.mem_iff_getElem.mp hw
  rw [State.modVoice_length] at hd
  have hold := h.voices _ (List.getElem_mem hd)
  simp only [State.modVoice_voices, List.getElem_modify]
  split
  · exact hf _ hold
  · exact hold

theorem IsSilenced.interpretBelow {s : State} (h : IsSilenced s) (n : Nat) : IsSilenced (interpretBelow s n) := by
  induction n with
  | zero => exact h
  | succ n ih =>
    obtain ⟨hins, hfx, -⟩ := ih.voice n
    rw [Machine.interpretBelow, interpretChannel_of_unassigned hins hfx]
    have hrow : IsSilenced (((Machine.interpretBelow s n).withActive n).withPfRaw
        ((Machine.interpretBelow s n).withActive n).basePitch) := ⟨ih.voices, ih.fState⟩
    exact hrow.modVoice n fun _ hv => hv

theorem IsSilenced.interpretAll {s : State} (h : IsSilenced s) : IsSilenced (interpretAll s) :=
  have hrows := h.interpretBelow (channelCount s.build)
  ⟨hrows.voices, hrows.fState⟩

/-- The oscillator writes phase and noise, which silence does not read. -/
theorem IsSilenced.oscillateAll {s : State} (h : IsSilenced s) : IsSilenced (oscillateAll s) := by
  refine ⟨fun w hw => ?_, h.fState⟩
  obtain ⟨c, hc, rfl⟩ := List.mem_mapIdx.mp hw
  have hold := h.voices _ (List.getElem_mem hc)
  exact hold

/-- An idle envelope whose gate is off stands still (R163, R168). -/
theorem envelope_of_silent (b : Build) (adsr : Word16) {v : Voice} (h : IsSilent v) : envelope b adsr v = v := by
  obtain ⟨-, -, hgate, hstage, -⟩ := h
  have hstep : stageStep b adsr (gateStage (effectiveGate v) v.envStage) v.envAcc.toNat
      = (v.envStage, v.envAcc.toNat) := by
    rw [effectiveGate, hgate, hstage]
    rfl
  simp only [envelope, hstep, BitVec.ofNat_toNat, BitVec.setWidth_eq]

theorem IsSilenced.envelopeAll {s : State} (h : IsSilenced s) : IsSilenced (envelopeAll s) := by
  refine ⟨fun w hw => ?_, h.fState⟩
  obtain ⟨v, hv, rfl⟩ := List.mem_map.mp hw
  rw [envelope_of_silent _ _ (h.voices v hv)]
  exact h.voices v hv

/-- At level 0 every waveform is 0 (R160, R170). -/
theorem voiceOut_of_silent (wv : BitVec 12) {v : Voice} (h : IsSilent v) : voiceOut wv v = 0 := by
  obtain ⟨-, -, -, -, hacc⟩ := h
  simp [voiceOut, envLevel, hacc, asr]

theorem sumBelow_shareOf_zero (s : State) {out : Nat → Int} (h : ∀ c, out c = 0) (routed : Bool) (n : Nat) :
    sumBelow (shareOf s out routed) n = 0 := by
  have hshare : ∀ c, shareOf s out routed c = 0 := fun c => by simp [shareOf, h c]
  have hbounds := sumBelow_abs_le (f := shareOf s out routed) (m := 0) n fun c => by simp [hshare c]
  omega

/-- Every build's filter answers 0 in its initial state by 0 and stays there (R274). -/
theorem filterStepFn_filterInit (b : Build) (cutoff : BitVec 5) (res : BitVec 4) (ftype : BitVec 3) :
    filterStepFn b (filterInit b) 0 cutoff res ftype = (filterInit b, 0) := by
  cases b with
  | reference => simp [filterStepFn, filterInit, referenceFilter, asr, sat, clampInt, signedMin, signedMax]
  | other n => exact if_pos ⟨rfl, rfl⟩

theorem headroom_zero (b : Build) : headroom b 0 = 0 := by
  simp [headroom, asr, sat, clampInt, signedMin, signedMax]

/-- Silence mixes to 0 (R280, R281). -/
theorem mixOut_sampleOut_zero {s : State} (hinit : s.fState = filterInit s.build) {out : Nat → Int}
    (hout : ∀ c, out c = 0) : (mixOut s out).sampleOut = 0 := by
  have hrouted : routedSum s out = 0 := sumBelow_shareOf_zero s hout true _
  have hdirect : directSum s out = 0 := sumBelow_shareOf_zero s hout false _
  simp [mixOut, hrouted, hdirect, hinit, filterStepFn_filterInit, headroom_zero]

theorem IsSilenced.tickCmd_sampleOut {s : State} (h : IsSilenced s) : (tickCmd s).sampleOut = 0 := by
  unfold tickCmd
  split
  · have henv : IsSilenced (Machine.envelopeAll (Machine.oscillateAll (Machine.interpretAll s))) :=
      h.interpretAll.oscillateAll.envelopeAll
    exact mixOut_sampleOut_zero henv.fState fun c => voiceOut_of_silent _ (henv.voice c)
  · rfl

/-- Settles O42: SILENCE leaves a silenced state. -/
theorem silencedMachineEmitsZero : Obligations.SilencedMachineEmitsZero := by
  unfold Obligations.SilencedMachineEmitsZero
  intro s
  exact ⟨silenceCmd s, tickCmd (silenceCmd s), exec_eq_next .silence s, exec_eq_next .tick _,
    (isSilenced_silenceCmd s).tickCmd_sampleOut⟩

end Sys2Proof.Machine
end

/-! The voice engine (`41_voice_engine.md`): oscillator, noise, envelope, shapes and output as functions of numbers, and
what a running TICK makes of them. -/
section
namespace Sys2Proof.Machine

/-! The phase and the noise register (R151 to R153). -/

/-- Hard sync discards the advance, which otherwise drops its carry (R151, R152). -/
theorem nextPhase_toNat (v : Voice) (w : Bool) :
    (nextPhase v w).toNat =
      if v.flags.getLsbD 6 = true ∧ w = true then 0 else (v.phase.toNat + v.freq.toNat) % 2 ^ 24 := by
  have hadvance : ((phaseSum v).extractLsb' 0 24).toNat = (v.phase.toNat + v.freq.toNat) % 2 ^ 24 := by
    rw [BitVec.extractLsb'_toNat, phaseSum_toNat, Nat.shiftRight_zero]
  simp only [nextPhase, flagSync, Bool.and_eq_true, apply_ite BitVec.toNat, hadvance]
  rfl

/-- The concatenation of R153 is a shift with the new bit put in. -/
theorem lfsrStep_eq_shift (l : BitVec 23) :
    lfsrStep l = (l <<< 1) ||| (BitVec.ofBool (l.getLsbD 22 ^^ l.getLsbD 17)).zeroExtend 23 := by
  refine BitVec.eq_of_getLsbD_eq fun i hi => ?_
  rw [lfsrStep, BitVec.getLsbD_append]
  cases i with
  | zero => simp
  | succ i =>
    have hi' : i < 22 := by omega
    have hbit : l.getLsbD i = l[i] := BitVec.getLsbD_eq_getElem (by omega)
    simp [hi, hi', hbit]

theorem nextLfsr_eq (l : BitVec 23) (old new : BitVec 24) :
    nextLfsr l old new = if old.getLsbD 19 = false ∧ new.getLsbD 19 = true then lfsrStep l else l := by
  simp only [nextLfsr, Bool.and_eq_true, Bool.not_eq_true']

/-! A running TICK: what each channel's registers afterwards are computed from. -/

theorem exec_tick_of_run {s : State} (h : s.run = true) : exec .tick s = .next (tickRunning s) := by
  rw [exec_eq_next, nextState, tickCmd_of_run h]

/-- Oscillator and envelope leave the flags and the frequency that the interpreters wrote in this tick (R290). -/
theorem tickRunning_flags_freq {s : State} (hl : s.voices.length = channelCount s.build) {c : Nat}
    (hc : c < channelCount s.build) :
    ((tickRunning s).voice c).flags = (interpVoice s (s.voice c)).flags
      ∧ ((tickRunning s).voice c).freq = (interpVoice s (s.voice c)).freq := by
  rw [tickRunning_voice s hl c hc]
  exact ⟨rfl, rfl⟩

/-- The carry that a neighbour is synced on: the phase before the tick and the frequency of this tick (R151, R152). -/
theorem phaseWrap_interpVoice {s : State} (hl : s.voices.length = channelCount s.build) {d : Nat}
    (hd : d < channelCount s.build) :
    phaseWrap (interpVoice s (s.voice d)) = true
      ↔ 2 ^ 24 ≤ (s.voice d).phase.toNat + ((tickRunning s).voice d).freq.toNat := by
  obtain ⟨-, -, -, -, hphase, -⟩ := interpVoice_frame s (s.voice d)
  obtain ⟨-, hfreq⟩ := tickRunning_flags_freq hl hd
  rw [phaseWrap_eq, decide_eq_true_iff, hphase, hfreq]

theorem tickRunning_phase_toNat {s : State} (hl : s.voices.length = channelCount s.build) {c : Nat}
    (hc : c < channelCount s.build) :
    ((tickRunning s).voice c).phase.toNat =
      if ((tickRunning s).voice c).flags.getLsbD 6 = true
          ∧ 2 ^ 24 ≤ (s.voice (neighbour s.build c)).phase.toNat
            + ((tickRunning s).voice (neighbour s.build c)).freq.toNat
        then 0 else ((s.voice c).phase.toNat + ((tickRunning s).voice c).freq.toNat) % 2 ^ 24 := by
  obtain ⟨-, -, -, -, hphase, -⟩ := interpVoice_frame s (s.voice c)
  obtain ⟨hflags, hfreq⟩ := tickRunning_flags_freq hl hc
  have hnext : ((tickRunning s).voice c).phase
      = nextPhase (interpVoice s (s.voice c)) (phaseWrap (interpVoice s (s.voice (neighbour s.build c)))) := by
    rw [tickRunning_voice s hl c hc]
    rfl
  simp only [hnext, nextPhase_toNat, phaseWrap_interpVoice hl (neighbour_lt s.build c), hphase, hflags, hfreq]

theorem tickRunning_lfsr {s : State} (hl : s.voices.length = channelCount s.build) {c : Nat}
    (hc : c < channelCount s.build) :
    ((tickRunning s).voice c).lfsr
      = nextLfsr (s.voice c).lfsr (s.voice c).phase ((tickRunning s).voice c).phase := by
  obtain ⟨-, -, -, -, hphase, hlfsr, -⟩ := interpVoice_frame s (s.voice c)
  rw [tickRunning_voice s hl c hc, ← hphase, ← hlfsr]
  rfl

/-- Settles O34: the phase by hard sync or the sum, the noise register by its clock. -/
theorem tickAdvancesPhaseSyncAndNoise : Obligations.TickAdvancesPhaseSyncAndNoise := by
  unfold Obligations.TickAdvancesPhaseSyncAndNoise
  intro s hrun hl
  refine ⟨tickRunning s, exec_tick_of_run hrun, fun c hc => ?_⟩
  have hlfsr := tickRunning_lfsr hl hc
  refine ⟨tickRunning_phase_toNat hl hc, ?_, fun hne => ?_⟩
  · rw [hlfsr, nextLfsr_eq, lfsrStep_eq_shift]
  · rw [hlfsr]
    exact nextLfsr_ne_zero hne _ _

/-! The envelope (R162 to R168). -/

theorem effectiveGate_iff (v : Voice) : effectiveGate v = true ↔ v.noteGate = true ∧ v.flags.getLsbD 0 = true := by
  rw [effectiveGate, flagGate, Bool.and_eq_true]

/-- The gate test by its two moves (R163). -/
theorem gateStage_eq (g : Bool) (st : Stage) :
    gateStage g st =
      if g = true ∧ (st = .idle ∨ st = .release) then .attack
      else if ¬ g = true ∧ (st = .attack ∨ st = .decay ∨ st = .sustain) then .release
      else st := by
  cases g <;> cases st <;> rfl

/-- Stage and level after a TICK: one step of the stage that the gate test leaves, with the ADSR word of the Instrument
assigned before the tick, which no phase of it changes (R161, R163). -/
theorem tickRunning_envelope {s : State} (hl : s.voices.length = channelCount s.build) {c : Nat}
    (hc : c < channelCount s.build) :
    (((tickRunning s).voice c).envStage, ((tickRunning s).voice c).envAcc.toNat) =
      stageStep s.build (s.adsr (s.voice c))
        (gateStage (effectiveGate ((tickRunning s).voice c)) (s.voice c).envStage) (s.voice c).envAcc.toNat := by
  obtain ⟨-, -, -, -, -, -, hstage, hacc, -⟩ := interpVoice_frame s (s.voice c)
  rw [tickRunning_voice s hl c hc, envelope_envAcc, ← hstage, ← hacc]
  rfl

/-- Settles O35: the gate test decides the stage, and each stage's step is the one the rules give it. -/
theorem tickStepsTheEnvelope : Obligations.TickStepsTheEnvelope := by
  unfold Obligations.TickStepsTheEnvelope
  intro s hrun hl
  refine ⟨tickRunning s, exec_tick_of_run hrun, fun c hc => ?_⟩
  intro v w attack decay target release gate stage acc decayed
  have hgate : effectiveGate ((tickRunning s).voice c) = true ↔ gate := by
    obtain ⟨-, -, -, hnoteGate, -⟩ := sameCommandRegisters_tickRunning hl hc
    rw [effectiveGate_iff, hnoteGate]
  have hstage : gateStage (effectiveGate ((tickRunning s).voice c)) v.envStage = stage := by
    simp only [gateStage_eq, hgate, stage]
  rw [tickRunning_envelope hl hc, hstage]
  cases stage with
  | attack => rfl
  | decay => rfl
  | sustain => rfl
  | release => rfl
  | idle => rfl

/-! The shapes as numbers (R154 to R159). -/

theorem sawWave_toNat (v : Voice) : (sawWave v).toNat = v.phase.toNat / 2 ^ 12 := by
  have hphase := v.phase.isLt
  rw [sawWave, BitVec.extractLsb'_toNat, Nat.shiftRight_eq_div_pow]
  omega

/-- The top bit of the phase turns the ramp round (R155). -/
theorem triWave_toNat (v : Voice) :
    (triWave v).toNat =
      if v.phase.toNat < 2 ^ 23 then v.phase.toNat / 2 ^ 11 % 2 ^ 12 else 0xFFF - v.phase.toNat / 2 ^ 11 % 2 ^ 12 := by
  have hramp : (v.phase.extractLsb' 11 12).toNat = v.phase.toNat / 2 ^ 11 % 2 ^ 12 := by
    rw [BitVec.extractLsb'_toNat, Nat.shiftRight_eq_div_pow]
  have htop : v.phase.getLsbD 23 = decide (2 ^ 23 ≤ v.phase.toNat) := BitVec.msb_eq_decide v.phase
  rw [triWave, htop]
  by_cases hfirst : v.phase.toNat < 2 ^ 23
  · rw [if_neg (by simpa using hfirst), if_pos hfirst, hramp]
  · rw [if_pos (by simpa using hfirst), if_neg hfirst, BitVec.toNat_not, hramp]

theorem pulseWave_toNat (v : Voice) :
    (pulseWave v).toNat = if v.phase.toNat / 2 ^ 19 < v.pw.toNat then 0xFFF else 0 := by
  have hphase := v.phase.isLt
  have htop : (v.phase.extractLsb' 19 5).toNat = v.phase.toNat / 2 ^ 19 := by
    rw [BitVec.extractLsb'_toNat, Nat.shiftRight_eq_div_pow]
    omega
  rw [pulseWave, htop, apply_ite BitVec.toNat]
  rfl

theorem noiseWave_toNat (v : Voice) : (noiseWave v).toNat = v.lfsr.toNat / 2 ^ 11 := by
  have hlfsr := v.lfsr.isLt
  rw [noiseWave, BitVec.extractLsb'_toNat, Nat.shiftRight_eq_div_pow]
  omega

theorem selectShape_toNat (on : Bool) (shape : BitVec 12) :
    (selectShape on shape).toNat = if on then shape.toNat else 0xFFF := by
  rw [selectShape, apply_ite BitVec.toNat]
  rfl

/-- The AND of the selected shapes, or the middle value (R158). -/
theorem genWave_toNat (v : Voice) :
    (genWave v).toNat =
      if v.flags.getLsbD 1 || v.flags.getLsbD 2 || v.flags.getLsbD 3 || v.flags.getLsbD 4 then
        (if v.flags.getLsbD 1 then (triWave v).toNat else 0xFFF)
          &&& (if v.flags.getLsbD 2 then (sawWave v).toNat else 0xFFF)
          &&& (if v.flags.getLsbD 3 then (pulseWave v).toNat else 0xFFF)
          &&& (if v.flags.getLsbD 4 then (noiseWave v).toNat else 0xFFF)
      else 0x800 := by
  rw [genWave, apply_ite BitVec.toNat]
  simp only [BitVec.toNat_and, selectShape_toNat]
  rfl

theorem ringWave_toNat (s : State) (c : Nat) :
    (ringWave s c).toNat =
      if (s.voice c).flags.getLsbD 5 then
        (genWave (s.voice c)).toNat ^^^ (genWave (s.voice (neighbour s.build c))).toNat
      else (genWave (s.voice c)).toNat := by
  rw [ringWave, apply_ite BitVec.toNat, BitVec.toNat_xor]
  rfl

/-- Settles O36: ring modulation of the generated waveforms, each with its shapes written as numbers. -/
theorem waveformsCombineByAndAndRing : Obligations.WaveformsCombineByAndAndRing := by
  unfold Obligations.WaveformsCombineByAndAndRing
  intro s c
  refine ⟨?_, rfl⟩
  simp only [ringWave_toNat, genWave_toNat, sawWave_toNat, triWave_toNat, pulseWave_toNat, noiseWave_toNat]

/-! The output (R169, R170). -/

theorem envLevel_toNat (v : Voice) : (envLevel v).toNat = v.envAcc.toNat / 2 ^ 16 := by
  have hacc := v.envAcc.isLt
  rw [envLevel, BitVec.extractLsb'_toNat, Nat.shiftRight_eq_div_pow]
  omega

/-- The product spans `−2048 · 255 .. 2047 · 255` (R170). -/
theorem signedWave_mul_mem (wv : BitVec 12) {level : Nat} (h : level ≤ 255) :
    -522240 ≤ signedWave wv * level ∧ signedWave wv * level ≤ 521985 := by
  have hwave : -2048 ≤ signedWave wv ∧ signedWave wv ≤ 2047 := by
    have hlt := wv.isLt
    rw [signedWave]
    omega
  constructor <;> nlinarith

/-- Settles O39: the shift is the floor of the sixteenth, and the product's bounds give the output's. -/
theorem voiceOutputIsBounded : Obligations.VoiceOutputIsBounded := by
  unfold Obligations.VoiceOutputIsBounded
  intro wv v product
  have hlevel : v.envAcc.toNat / 2 ^ 16 ≤ 255 := by
    have hacc := v.envAcc.isLt
    omega
  have hproduct : -522240 ≤ product ∧ product ≤ 521985 := signedWave_mul_mem wv hlevel
  have hfloor : voiceOut wv v = product / 16 := by
    rw [voiceOut, envLevel_toNat]
    rfl
  omega

end Sys2Proof.Machine
end

/-! The program interpreters (`42_interpreter_core.md`): the rows a well-formed program executes one after the other, and
what a running TICK leaves in the registers its rows and cursors write. -/
section
namespace Sys2Proof.Machine

/-! The sequence of rows (R194). -/

theorem headerLength_lt (header : Word16) : headerLength header < 2 ^ 8 := (header.extractLsb' 0 8).isLt

/-- The row that a program of length `n` and loop `l`, started at 0, executes at the `k`-th execution (R194). -/
def programRow (n l k : Nat) : Nat := if k < n then k else l + (k - n) % (n - l)

theorem programRow_lt {n l : Nat} (hl : l < n) (k : Nat) : programRow n l k < n := by
  have hmod : (k - n) % (n - l) < n - l := Nat.mod_lt _ (by omega)
  unfold programRow
  split <;> omega

/-- The row after a row of the sequence is the next of the sequence: by one within the first pass and within a turn of the
loop, to the loop point at the end of either (R193, R194). -/
theorem advanceIndex_programRow {n l : Nat} (hl : l < n) (k : Nat) :
    advanceIndex n l (programRow n l k) = programRow n l (k + 1) := by
  obtain hpass | rfl | hloop : k + 1 < n ∨ k + 1 = n ∨ n ≤ k := by omega
  · have hk : k < n := by omega
    simp only [advanceIndex, programRow, hk, hpass, if_true, if_neg (Nat.not_le_of_gt hpass)]
  · simp [advanceIndex, programRow]
  · have hturn : (k + 1 - n) % (n - l) = ((k - n) % (n - l) + 1) % (n - l) := by
      rw [Nat.mod_add_mod, Nat.sub_add_comm hloop]
    have hmod : (k - n) % (n - l) < n - l := Nat.mod_lt _ (by omega)
    simp only [advanceIndex, programRow, if_neg (Nat.not_lt_of_ge hloop), if_neg (show ¬ k + 1 < n by omega), hturn]
    by_cases hend : (k - n) % (n - l) + 1 = n - l
    · rw [hend, Nat.mod_self, if_pos (by omega), Nat.add_zero]
    · rw [Nat.mod_eq_of_lt (show (k - n) % (n - l) + 1 < n - l by omega), if_neg (by omega), Nat.add_assoc]

/-- A well-formed program with its cursor inside it: nothing is shortened or re-bound (R192, R193). -/
theorem fetchPlan_of_headerOk {header : Word16} {max : Nat} (hok : HeaderOk header max) {pos : BitVec 8}
    (hpos : pos.toNat < headerLength header) :
    fetchPlan header max pos =
      some (pos.toNat, BitVec.ofNat 8 (advanceIndex (headerLength header) (headerLoop header) pos.toNat)) := by
  obtain ⟨hmax, hloop⟩ := hok
  have hlen : headerLength header ≠ 0 := by omega
  simp only [fetchPlan, effectiveLength, effectiveLoop, fetchIndex, Nat.min_eq_left hmax, hloop, if_true, if_neg hlen,
    if_neg (Nat.not_le_of_gt hpos)]

/-- The cursors of a well-formed program started at 0 are its sequence of rows. -/
theorem cursor_toNat_eq_programRow {header : Word16} {max : Nat} {cursor : Nat → BitVec 8} (hok : HeaderOk header max)
    (hstart : cursor 0 = 0)
    (hnext : ∀ k, ∀ p next, fetchPlan header max (cursor k) = some (p, next) → cursor (k + 1) = next) (k : Nat) :
    (cursor k).toNat = programRow (headerLength header) (headerLoop header) k := by
  have hloop : headerLoop header < headerLength header := hok.2
  induction k with
  | zero => rw [hstart, programRow, if_pos (Nat.zero_lt_of_lt hloop)]; rfl
  | succ k ih =>
    have hrow := programRow_lt hloop k
    have hrow' := programRow_lt hloop (k + 1)
    have hbyte := headerLength_lt header
    rw [hnext k _ _ (fetchPlan_of_headerOk hok (ih ▸ hrow)), ih, advanceIndex_programRow hloop, BitVec.toNat_ofNat,
      Nat.mod_eq_of_lt (hrow'.trans hbyte)]

/-- Settles O49: each cursor is the row of the sequence, and is inside the program. -/
theorem programWrapsFromItsLengthToItsLoop : Obligations.ProgramWrapsFromItsLengthToItsLoop := by
  unfold Obligations.ProgramWrapsFromItsLengthToItsLoop
  intro header max cursor hok hstart hnext n l k
  have hcursor := cursor_toNat_eq_programRow hok hstart hnext k
  have hplan := fetchPlan_of_headerOk hok (hcursor ▸ programRow_lt hok.2 k)
  rw [hnext k _ _ hplan, hplan, hcursor]
  rfl

/-! The cursors after a running TICK (R191 to R193, R196). -/

/-- A cursor after its interpreter: the plan's, or the one that stands where nothing executes. -/
def cursorAfter (plan : Option (Nat × BitVec 8)) (pos : BitVec 8) : BitVec 8 := plan.elim pos Prod.snd

/-- The row after one of a program, wrapped, fits the cursor register, as lengths and loop points are bytes
(R65, R192). -/
theorem advanceIndex_lt (header : Word16) (max p : Nat) :
    let lenE := effectiveLength (headerLength header) max
    advanceIndex lenE (effectiveLoop lenE (headerLoop header)) p < 2 ^ 8 := by
  intro lenE
  have hlenE : lenE < 2 ^ 8 := (Nat.min_le_left _ _).trans_lt (headerLength_lt header)
  have hloopE : effectiveLoop lenE (headerLoop header) < 2 ^ 8 := by
    unfold effectiveLoop
    split <;> omega
  unfold advanceIndex
  split <;> omega

/-- So the cursor that a fetch leaves is that row. -/
theorem toNat_ofNat_advanceIndex (header : Word16) (max p : Nat) :
    let lenE := effectiveLength (headerLength header) max
    let loopE := effectiveLoop lenE (headerLoop header)
    (BitVec.ofNat 8 (advanceIndex lenE loopE p)).toNat = advanceIndex lenE loopE p :=
  (BitVec.toNat_ofNat ..).trans (Nat.mod_eq_of_lt (advanceIndex_lt header max p))

/-- A build's maximum length is at least 1, so that a program does not execute exactly where it is empty or not assigned
(R191, R192). -/
theorem cursorAfter_assignedPlan_toNat (index : BitVec 8) (header : Word16) {max : Nat} (hmax : 1 ≤ max)
    (pos : BitVec 8) :
    (cursorAfter (assignedPlan index header max pos) pos).toNat =
      if index = 0 ∨ headerLength header = 0 then pos.toNat
      else
        let lenE := effectiveLength (headerLength header) max
        let loopE := effectiveLoop lenE (headerLoop header)
        advanceIndex lenE loopE (fetchIndex lenE loopE pos.toNat) := by
  split
  next hnothing =>
    rw [assignedPlan_eq_none pos (hnothing.imp_right fun hempty => by rw [hempty, Nat.zero_min])]
    rfl
  next hexecutes =>
    obtain ⟨hassigned, hlen⟩ := not_or.mp hexecutes
    rw [assignedPlan_eq_some pos hassigned (by omega)]
    exact toNat_ofNat_advanceIndex header max _

theorem one_le_maxFilterLength (b : Build) : 1 ≤ maxFilterLength b := by
  cases b with
  | reference => decide
  | other n => exact (clampNat_mem (by decide) _).1

theorem one_le_maxEffectLength (b : Build) : 1 ≤ maxEffectLength b := by
  cases b with
  | reference => decide
  | other n => exact (clampNat_mem (by decide) _).1

theorem filterPlanOf_eq_assignedPlan (s : State) (v : Voice) : filterPlanOf s v =
    assignedPlan v.curIns (s.insWord v.curIns.toNat 3) (maxFilterLength s.build) v.fltPos := rfl

theorem effectPlanOf_eq_assignedPlan (s : State) (v : Voice) : effectPlanOf s v =
    assignedPlan v.curFx (s.fxWord v.curFx.toNat 0) (maxEffectLength s.build) v.fxPos := rfl

/-- The registers the filter interpreter leaves alone. -/
theorem filterVoice_eq (s : State) (v : Voice) :
    filterVoice s v = { v with fltPos := cursorAfter (filterPlanOf s v) v.fltPos } := by
  unfold filterVoice
  cases filterPlanOf s v <;> rfl

/-- The registers the effect interpreter leaves alone. -/
theorem effectVoice_eq (s : State) (v : Voice) :
    effectVoice s v = { v with fxPos := cursorAfter (effectPlanOf s v) v.fxPos } := by
  unfold effectVoice
  cases effectPlanOf s v <;> rfl

/-- Flags, pulse width and wave cursor after a channel's interpreters are those that its wave interpreter leaves. -/
theorem interpVoice_wave (s : State) (v : Voice) :
    (interpVoice s v).flags = (waveVoice s v).flags ∧ (interpVoice s v).pw = (waveVoice s v).pw
      ∧ (interpVoice s v).insPos = (waveVoice s v).insPos := by
  simp only [interpVoice, effectVoice_eq, filterVoice_eq, and_self]

/-- The filter and the effect cursor after a channel's interpreters: neither depends on the interpreters before (R196). -/
theorem interpVoice_cursors (s : State) (v : Voice) :
    (interpVoice s v).fltPos = cursorAfter (filterPlanOf s v) v.fltPos
      ∧ (interpVoice s v).fxPos = cursorAfter (effectPlanOf s v) v.fxPos := by
  obtain ⟨hins, hfx, hfltPos, hfxPos, -⟩ := waveVoice_later s v
  simp only [interpVoice, effectVoice_eq, filterVoice_eq, filterPlanOf, effectPlanOf, hins, hfx, hfltPos, hfxPos,
    and_self]

/-- The phases after the interpreters leave a channel's pulse width and cursors alone (R290). -/
theorem envelope_oscillate_pw_cursors (b : Build) (adsr : Word16) (w : Bool) (v : Voice) :
    (envelope b adsr (oscillate w v)).pw = v.pw ∧ (envelope b adsr (oscillate w v)).insPos = v.insPos
      ∧ (envelope b adsr (oscillate w v)).fltPos = v.fltPos ∧ (envelope b adsr (oscillate w v)).fxPos = v.fxPos :=
  ⟨rfl, rfl, rfl, rfl⟩

/-- Pulse width and cursors after a running TICK are those that the interpreters wrote in it (R290). -/
theorem tickRunning_pw_cursors {s : State} (hl : s.voices.length = channelCount s.build) {c : Nat}
    (hc : c < channelCount s.build) :
    ((tickRunning s).voice c).pw = (interpVoice s (s.voice c)).pw
      ∧ ((tickRunning s).voice c).insPos = (interpVoice s (s.voice c)).insPos
      ∧ ((tickRunning s).voice c).fltPos = (interpVoice s (s.voice c)).fltPos
      ∧ ((tickRunning s).voice c).fxPos = (interpVoice s (s.voice c)).fxPos := by
  rw [tickRunning_voice s hl c hc]
  exact envelope_oscillate_pw_cursors _ _ _ _

/-- Settles O31: each cursor after the tick is its plan's, and the assigned index and the header decide the plan. -/
theorem tickMovesFilterAndEffectCursors : Obligations.TickMovesFilterAndEffectCursors := by
  unfold Obligations.TickMovesFilterAndEffectCursors
  intro s hrun hl
  refine ⟨tickRunning s, exec_tick_of_run hrun, fun c hc => ?_⟩
  obtain ⟨-, -, htickFlt, htickFx⟩ := tickRunning_pw_cursors hl hc
  obtain ⟨hfltPos, hfxPos⟩ := interpVoice_cursors s (s.voice c)
  rw [htickFlt, htickFx, hfltPos, hfxPos, filterPlanOf_eq_assignedPlan, effectPlanOf_eq_assignedPlan]
  exact ⟨cursorAfter_assignedPlan_toNat _ _ (one_le_maxFilterLength _) _,
    cursorAfter_assignedPlan_toNat _ _ (one_le_maxEffectLength _) _⟩

/-! The wave row of a running TICK (R211 to R215). -/

/-- Testing a field in place, under its mask, is testing the field. -/
theorem and_mask_eq_iff {n len : Nat} (lo : Nat) (hfits : lo + len ≤ n) (w : BitVec n) (x : BitVec len) :
    w &&& (BitVec.allOnes len).setWidth n <<< lo = x.setWidth n <<< lo ↔ w.extractLsb' lo len = x := by
  constructor
  · intro h
    refine BitVec.eq_of_getLsbD_eq fun i hi => ?_
    have hbit := congrArg (fun y => y.getLsbD (lo + i)) h
    have hin : lo + i < n := by omega
    have hin' : i < n := by omega
    simpa [hi, hin, hin'] using hbit
  · rintro rfl
    refine BitVec.eq_of_getLsbD_eq fun i hi => ?_
    by_cases hlo : i < lo
    · simp [hlo]
    · have hback : lo + (i - lo) = i := by omega
      by_cases hlen : i - lo < len <;> simp [hi, hlo, hlen, hback]

/-- The opcode bits `[6:5]` of a wave or filter row, tested in place (R91, R92). -/
theorem and_0x0060_eq_iff (row : Word16) (op : BitVec 2) :
    row &&& 0x0060 = op.setWidth 16 <<< 5 ↔ row.extractLsb' 5 2 = op :=
  and_mask_eq_iff 5 (by decide) row op

/-- The pulse width after a wave row, as a number (R212 to R215). -/
theorem waveRowVoice_pw_toNat (row : Word16) (v : Voice) :
    let value := (row.extractLsb' 0 5).toNat
    (waveRowVoice row v).pw.toNat =
      if row &&& 0x0060 = 0x0000 then value else if row &&& 0x0060 = 0x0020 then min 31 (v.pw.toNat + value)
      else if row &&& 0x0060 = 0x0040 then v.pw.toNat - value else v.pw.toNat := by
  have hset : row &&& 0x0060 = 0x0000 ↔ row.extractLsb' 5 2 = 0 := and_0x0060_eq_iff row 0
  have hinc : row &&& 0x0060 = 0x0020 ↔ row.extractLsb' 5 2 = 1 := and_0x0060_eq_iff row 1
  have hdec : row &&& 0x0060 = 0x0040 ↔ row.extractLsb' 5 2 = 2 := and_0x0060_eq_iff row 2
  simp only [waveRowVoice, pwMax, apply_ite BitVec.toNat, incClamp_toNat, decClamp_toNat, hset, hinc, hdec]

/-- A wave program that does not execute leaves its channel alone (R191). -/
theorem waveVoice_of_no_plan {s : State} {v : Voice} (h : wavePlanOf s v = none) : waveVoice s v = v := by
  simp only [waveVoice, h]

/-- A wave program that executes runs one row and moves its cursor (R193). -/
theorem waveVoice_of_plan {s : State} {v : Voice} {p : Nat} {next : BitVec 8} (h : wavePlanOf s v = some (p, next)) :
    waveVoice s v = { waveRowVoice (s.insWord v.curIns.toNat (4 + p)) v with insPos := next } := by
  simp only [waveVoice, h]

/-- Settles O30: the wave interpreter alone writes the three registers, and its plan says by which row. -/
theorem tickRunsOneWaveRowPerArmedChannel : Obligations.TickRunsOneWaveRowPerArmedChannel := by
  unfold Obligations.TickRunsOneWaveRowPerArmedChannel
  intro s hrun hl
  refine ⟨tickRunning s, exec_tick_of_run hrun, fun c hc => ?_⟩
  intro v header lenE loopE p row value
  obtain ⟨htickFlags, -⟩ := tickRunning_flags_freq hl hc
  obtain ⟨htickPw, htickPos, -⟩ := tickRunning_pw_cursors hl hc
  obtain ⟨hflags, hpw, hpos⟩ := interpVoice_wave s v
  rw [htickFlags, htickPw, htickPos, hflags, hpw, hpos]
  constructor
  · intro hnothing
    rw [waveVoice_of_no_plan (assignedPlan_eq_none v.insPos hnothing)]
    exact ⟨rfl, rfl, rfl⟩
  · intro hassigned hlen
    rw [waveVoice_of_plan (assignedPlan_eq_some v.insPos hassigned hlen)]
    exact ⟨rfl, waveRowVoice_pw_toNat row v, toNat_ofNat_advanceIndex header _ p⟩

end Sys2Proof.Machine
end

/-! The wave rows (R210 to R215): the opcode bits choose the row, and each row is one update of the active channel by its
pulse width and the flag latch. -/
section
namespace Sys2Proof.Machine

/-! The decoder, by the opcode bits tested in place (R91). -/

theorem decodeWave_of_masked {row : Word16} {op : BitVec 2} (h : row &&& 0x0060 = op.setWidth 16 <<< 5) :
    decodeWave row =
      if op = 0 then .wset (row.extractLsb' 0 5) (row.extractLsb' 7 7)
      else if op = 1 then .winc (row.extractLsb' 0 5) (row.extractLsb' 7 7)
      else if op = 2 then .wdec (row.extractLsb' 0 5) (row.extractLsb' 7 7)
      else .wrsv (row.extractLsb' 0 5) (row.extractLsb' 7 7) := by
  rw [← (and_0x0060_eq_iff row op).mp h]
  rfl

/-! What a wave row writes, and what it leaves alone (R210, R211). -/

theorem waveRow_voice_active (newPw : BitVec 5 → BitVec 5) (wflags : BitVec 7) (s : State)
    (hactive : s.active < s.voices.length) :
    (waveRow newPw wflags s).voice s.active =
      { s.voice s.active with pw := newPw (s.voice s.active).pw, flags := wflags } :=
  s.voice_modVoice_same s.active _ hactive

theorem oneVoiceFrame_waveRow (newPw : BitVec 5 → BitVec 5) (wflags : BitVec 7) (s : State) :
    OneVoiceFrame s.active s (waveRow newPw wflags s) :=
  oneVoiceFrame_modVoice s.active s _

/-- A wave row writes the flags it carries, and a pulse width of which the old one is all that it reads. -/
theorem waveRow_voice_pw (newPw : BitVec 5 → BitVec 5) (wflags : BitVec 7) (s : State)
    (hactive : s.active < s.voices.length) :
    let t := waveRow newPw wflags s
    (t.voice s.active).pw = newPw (s.voice s.active).pw
      ∧ t.voice s.active = { s.voice s.active with pw := (t.voice s.active).pw, flags := wflags } := by
  intro t
  rw [waveRow_voice_active newPw wflags s hactive]
  exact ⟨rfl, rfl⟩

/-! The four rows: what each makes of the old pulse width. -/

theorem exec_wset (value : BitVec 5) (wflags : BitVec 7) (s : State) :
    exec (.wset value wflags) s = .next (waveRow (fun _ => value) wflags s) := rfl

theorem exec_winc (value : BitVec 5) (wflags : BitVec 7) (s : State) :
    exec (.winc value wflags) s = .next (waveRow (fun p => incClamp pwMax p value) wflags s) := rfl

theorem exec_wdec (value : BitVec 5) (wflags : BitVec 7) (s : State) :
    exec (.wdec value wflags) s = .next (waveRow (fun p => decClamp p value) wflags s) := rfl

theorem exec_wrsv (value : BitVec 5) (wflags : BitVec 7) (s : State) :
    exec (.wrsv value wflags) s = .next (waveRow (fun p => p) wflags s) := rfl

/-- Settles O8: opcode 0, and the row that ignores the old pulse width. -/
theorem wsetSetsPulseWidthAndFlags : Obligations.WsetSetsPulseWidthAndFlags := by
  unfold Obligations.WsetSetsPulseWidthAndFlags
  refine ⟨fun row h => decodeWave_of_masked (op := 0) h, fun value wflags s => ?_⟩
  exact ⟨_, exec_wset value wflags s, waveRow_voice_active _ wflags s, oneVoiceFrame_waveRow _ wflags s⟩

/-- Settles O9: opcode 1, and the row that increments the old pulse width. -/
theorem wincRaisesPulseWidthToAtMost31 : Obligations.WincRaisesPulseWidthToAtMost31 := by
  unfold Obligations.WincRaisesPulseWidthToAtMost31
  refine ⟨fun row h => decodeWave_of_masked (op := 1) h, fun value wflags s => ?_⟩
  refine ⟨_, exec_winc value wflags s, fun hactive => ?_, oneVoiceFrame_waveRow _ wflags s⟩
  obtain ⟨hpw, hvoice⟩ := waveRow_voice_pw (fun p => incClamp pwMax p value) wflags s hactive
  refine ⟨?_, hvoice⟩
  rw [hpw]
  exact incClamp_toNat (s.voice s.active).pw value

/-- Settles O10: opcode 2, and the row that decrements the old pulse width; the clamp at 0 is that of the difference on
naturals. -/
theorem wdecLowersPulseWidthToAtLeast0 : Obligations.WdecLowersPulseWidthToAtLeast0 := by
  unfold Obligations.WdecLowersPulseWidthToAtLeast0
  refine ⟨fun row h => decodeWave_of_masked (op := 2) h, fun value wflags s => ?_⟩
  refine ⟨_, exec_wdec value wflags s, fun hactive => ?_, oneVoiceFrame_waveRow _ wflags s⟩
  obtain ⟨hpw, hvoice⟩ := waveRow_voice_pw (fun p => decClamp p value) wflags s hactive
  refine ⟨?_, hvoice⟩
  rw [hpw, decClamp_toNat]
  omega

/-- Settles O11: opcode 3, and the row that hands the old pulse width on. -/
theorem wrsvLatchesFlagsAlone : Obligations.WrsvLatchesFlagsAlone := by
  unfold Obligations.WrsvLatchesFlagsAlone
  refine ⟨fun row h => decodeWave_of_masked (op := 3) h, fun value wflags s => ?_⟩
  exact ⟨_, exec_wrsv value wflags s, waveRow_voice_active _ wflags s, oneVoiceFrame_waveRow _ wflags s⟩

end Sys2Proof.Machine
end

/-! The filter rows (R230 to R235): the opcode bits choose the row, each row is one write of the four filter control
registers, and in a running TICK the rows that execute are those writes in ascending channel order. -/
section
namespace Sys2Proof.Machine

/-! The decoder, by the opcode bits tested in place (R92). -/

theorem decodeFilter_of_masked {row : Word16} {op : BitVec 2} (h : row &&& 0x0060 = op.setWidth 16 <<< 5) :
    decodeFilter row =
      if op = 0 then .fset (row.extractLsb' 0 5) (row.extractLsb' 8 4) (row.extractLsb' 12 3)
      else if op = 1 then .finc (row.extractLsb' 0 5) (row.extractLsb' 8 4) (row.extractLsb' 12 3)
      else if op = 2 then .fdec (row.extractLsb' 0 5) (row.extractLsb' 8 4) (row.extractLsb' 12 3)
      else .frsv (row.extractLsb' 0 5) (row.extractLsb' 8 4) (row.extractLsb' 12 3) := by
  rw [← (and_0x0060_eq_iff row op).mp h]
  rfl

/-! What a filter row writes, and what it leaves alone (R230). -/

theorem filterRow_fCutoff (newCutoff : BitVec 5 → BitVec 5) (res : BitVec 4) (ftype : BitVec 3) (s : State) :
    (filterRow newCutoff res ftype s).fCutoff = newCutoff s.fCutoff := rfl

/-- The common writes and the frame, the same for the four rows. -/
theorem filterRow_common (newCutoff : BitVec 5 → BitVec 5) (res : BitVec 4) (ftype : BitVec 3) (s : State) :
    let t := filterRow newCutoff res ftype s
    t.fRes = res ∧ t.fType = ftype
      ∧ (s.activeVoice.curIns ≠ 0 → ∀ c, t.fRoute.getLsbD c =
          (decide (c < channelCount s.build) && (s.insWord s.activeVoice.curIns.toNat 2).getLsbD c))
      ∧ FilterRowFrame s t :=
  ⟨rfl, rfl, fun _ => routeMask_getLsbD s.build _, ⟨rfl, fun _ => rfl⟩, rfl, ⟨rfl, rfl, rfl, rfl, rfl, rfl⟩, rfl,
    fun _ => ⟨rfl, rfl⟩⟩

/-! The four rows: what each makes of the old cutoff. -/

theorem exec_fset (value : BitVec 5) (res : BitVec 4) (ftype : BitVec 3) (s : State) :
    exec (.fset value res ftype) s = .next (filterRow (fun _ => value) res ftype s) := rfl

theorem exec_finc (value : BitVec 5) (res : BitVec 4) (ftype : BitVec 3) (s : State) :
    exec (.finc value res ftype) s = .next (filterRow (fun k => incClamp cutMax k value) res ftype s) := rfl

theorem exec_fdec (value : BitVec 5) (res : BitVec 4) (ftype : BitVec 3) (s : State) :
    exec (.fdec value res ftype) s = .next (filterRow (fun k => decClamp k value) res ftype s) := rfl

theorem exec_frsv (value : BitVec 5) (res : BitVec 4) (ftype : BitVec 3) (s : State) :
    exec (.frsv value res ftype) s = .next (filterRow (fun k => k) res ftype s) := rfl

/-- Settles O12: opcode 0, and the row that ignores the old cutoff. -/
theorem fsetSetsCutoffAndFilterRegisters : Obligations.FsetSetsCutoffAndFilterRegisters := by
  unfold Obligations.FsetSetsCutoffAndFilterRegisters
  refine ⟨fun row h => decodeFilter_of_masked (op := 0) h, fun value res ftype s => ?_⟩
  exact ⟨_, exec_fset value res ftype s, filterRow_fCutoff _ res ftype s, filterRow_common _ res ftype s⟩

/-- Settles O13: opcode 1, and the row that increments the old cutoff. -/
theorem fincRaisesCutoffToAtMost31 : Obligations.FincRaisesCutoffToAtMost31 := by
  unfold Obligations.FincRaisesCutoffToAtMost31
  refine ⟨fun row h => decodeFilter_of_masked (op := 1) h, fun value res ftype s => ?_⟩
  refine ⟨_, exec_finc value res ftype s, ?_, filterRow_common _ res ftype s⟩
  rw [filterRow_fCutoff]
  exact incClamp_toNat s.fCutoff value

/-- Settles O14: opcode 2, and the row that decrements the old cutoff; the clamp at 0 is that of the difference on
naturals. -/
theorem fdecLowersCutoffToAtLeast0 : Obligations.FdecLowersCutoffToAtLeast0 := by
  unfold Obligations.FdecLowersCutoffToAtLeast0
  refine ⟨fun row h => decodeFilter_of_masked (op := 2) h, fun value res ftype s => ?_⟩
  refine ⟨_, exec_fdec value res ftype s, ?_, filterRow_common _ res ftype s⟩
  rw [filterRow_fCutoff, decClamp_toNat]
  omega

/-- Settles O15: opcode 3, and the row that hands the old cutoff on. -/
theorem frsvHoldsCutoff : Obligations.FrsvHoldsCutoff := by
  unfold Obligations.FrsvHoldsCutoff
  refine ⟨fun row h => decodeFilter_of_masked (op := 3) h, fun value res ftype s => ?_⟩
  exact ⟨_, exec_frsv value res ftype s, filterRow_fCutoff _ res ftype s, filterRow_common _ res ftype s⟩

/-! The filter row that a channel executes in a TICK (R191 to R193). -/

theorem filterRowOf_eq_none {s : State} {v : Voice}
    (h : ¬ (v.curIns ≠ 0 ∧ 0 < min (headerLength (s.insWord v.curIns.toNat 3)) (maxFilterLength s.build))) :
    filterRowOf s v = none := by
  have hnothing : v.curIns = 0 ∨ min (headerLength (s.insWord v.curIns.toNat 3)) (maxFilterLength s.build) = 0 :=
    (not_and_or.mp h).imp not_not.mp Nat.eq_zero_of_not_pos
  simp only [filterRowOf, filterPlanOf_eq_assignedPlan, assignedPlan_eq_none v.fltPos hnothing]

theorem filterRowOf_eq_some {s : State} {v : Voice} (hassigned : v.curIns ≠ 0)
    (hlen : 0 < min (headerLength (s.insWord v.curIns.toNat 3)) (maxFilterLength s.build)) :
    let header := s.insWord v.curIns.toNat 3
    let lenE := effectiveLength (headerLength header) (maxFilterLength s.build)
    let p := fetchIndex lenE (effectiveLoop lenE (headerLoop header)) v.fltPos.toNat
    filterRowOf s v = some (s.insWord v.curIns.toNat (4 + maxInstrumentLength s.build + p)) := by
  simp only [filterRowOf, filterPlanOf_eq_assignedPlan, assignedPlan_eq_some v.fltPos hassigned hlen]

/-- The cutoff after a filter row, as a number (R231 to R234). -/
theorem filterRowCutoff_toNat (row : Word16) (k : BitVec 5) :
    let value := (row.extractLsb' 0 5).toNat
    (filterRowCutoff row k).toNat =
      if row &&& 0x0060 = 0x0000 then value else if row &&& 0x0060 = 0x0020 then min 31 (k.toNat + value)
      else if row &&& 0x0060 = 0x0040 then k.toNat - value else k.toNat := by
  have hset : row &&& 0x0060 = 0x0000 ↔ row.extractLsb' 5 2 = 0 := and_0x0060_eq_iff row 0
  have hinc : row &&& 0x0060 = 0x0020 ↔ row.extractLsb' 5 2 = 1 := and_0x0060_eq_iff row 1
  have hdec : row &&& 0x0060 = 0x0040 ↔ row.extractLsb' 5 2 = 2 := and_0x0060_eq_iff row 2
  simp only [filterRowCutoff, cutMax, apply_ite BitVec.toNat, incClamp_toNat, decClamp_toNat, hset, hinc, hdec]

/-! The filter control registers after the filter rows of several channels (R235). -/

/-- A cutoff that each channel's row makes of the one before it is a fold over the channels, in their order. -/
theorem filtersBelow_fCutoff_toNat {s : State} {cutoffAfter : Nat → Nat → Nat}
    (hrow : ∀ (t : State) (c : Nat),
      (t.afterFilterRow (s.voice c).curIns.toNat (filterRowOf s (s.voice c))).fCutoff.toNat
        = cutoffAfter t.fCutoff.toNat c) (n : Nat) :
    (filtersBelow s n).fCutoff.toNat = (List.range n).foldl cutoffAfter s.fCutoff.toNat := by
  induction n with
  | zero => rfl
  | succ n ih => rw [filtersBelow, hrow, ih, List.range_succ, List.foldl_concat]

/-- Channels that execute no filter row leave the registers to the channels before them. -/
theorem filtersBelow_eq_of_no_rows {s : State} {m n : Nat} (hmn : m ≤ n)
    (hidle : ∀ c, m ≤ c → c < n → filterRowOf s (s.voice c) = none) : filtersBelow s n = filtersBelow s m := by
  induction n, hmn using Nat.le_induction with
  | base => rfl
  | succ n hmn ih =>
    rw [filtersBelow, hidle n hmn n.lt_succ_self, State.afterFilterRow]
    exact ih fun c hc hcn => hidle c hc (Nat.lt_succ_of_lt hcn)

/-- The last channel that executes a filter row decides resonance, type and routing. -/
theorem filtersBelow_of_last_row {s : State} {c n : Nat} {row : Word16} (hcn : c < n)
    (hrow : filterRowOf s (s.voice c) = some row)
    (hlast : ∀ d, c < d → d < n → filterRowOf s (s.voice d) = none) :
    (filtersBelow s n).fRes = row.extractLsb' 8 4 ∧ (filtersBelow s n).fType = row.extractLsb' 12 3
      ∧ (filtersBelow s n).fRoute = s.insRoute (s.voice c).curIns.toNat := by
  obtain ⟨hbuild, himem, -⟩ := filtersBelow_sameProgram s c
  rw [filtersBelow_eq_of_no_rows hcn hlast, filtersBelow, hrow]
  refine ⟨rfl, rfl, ?_⟩
  simp only [State.afterFilterRow, State.withFilter_fRoute, State.insRoute, State.insWord, hbuild, himem]

/-- The phases after the interpreters leave the filter control registers alone (R290). -/
theorem sameFilterControl_tickRunning {s : State} (hl : s.voices.length = channelCount s.build) :
    SameFilterControl (filtersBelow s (channelCount s.build)) (tickRunning s) := by
  obtain ⟨-, hcontrol, -⟩ := interpretAll_spec s hl
  exact hcontrol

/-- Settles O33: the registers after the tick are those of the filter rows in ascending channel order; the fold takes
each channel's row or none, and the last row that executes decides the other three. -/
theorem tickLetsTheLaterFilterRowWin : Obligations.TickLetsTheLaterFilterRowWin := by
  unfold Obligations.TickLetsTheLaterFilterRowWin
  intro s hrun hl
  refine ⟨tickRunning s, exec_tick_of_run hrun, ?_⟩
  intro header lenE loopE pos row runs cutoff
  have hsome : ∀ c, runs c → filterRowOf s (s.voice c) = some (row c) := fun c ⟨hassigned, hlen⟩ =>
    filterRowOf_eq_some hassigned hlen
  have hnone : ∀ c, ¬ runs c → filterRowOf s (s.voice c) = none := fun c h => filterRowOf_eq_none h
  obtain ⟨hcutoff, hres, htype, hroute⟩ := sameFilterControl_tickRunning hl
  rw [hcutoff, hres, htype, hroute]
  refine ⟨filtersBelow_fCutoff_toNat (fun t c => ?_) _, fun hidle => ?_, fun c hc hruns hlast => ?_⟩
  · split
    next hruns =>
      rw [hsome c hruns]
      exact filterRowCutoff_toNat (row c) t.fCutoff
    next hruns =>
      rw [hnone c hruns]
      rfl
  · rw [filtersBelow_eq_of_no_rows (Nat.zero_le _) fun c _ hc => hnone c (hidle c hc)]
    exact ⟨rfl, rfl, rfl⟩
  · obtain ⟨hlastRes, hlastType, hlastRoute⟩ :=
      filtersBelow_of_last_row hc (hsome c hruns) fun d hcd hd => hnone d (hlast d hcd hd)
    refine ⟨hlastRes, hlastType, fun d => ?_⟩
    rw [hlastRoute]
    exact routeMask_getLsbD s.build _ d

end Sys2Proof.Machine
end

/-! The effect rows, the pitch path and the frequency ROM (R250 to R261): an effect row writes the raw fine pitch and no
register, the pitch path makes the active channel's frequency of it, and the ROM is non-decreasing in the clamped pitch. -/
section
namespace Sys2Proof.Machine

/-! The decoder, by the opcode bits tested in place (R93). -/

/-- The opcode bits `[9:8]` of an effect row, tested in place (R93). -/
theorem and_0x0300_eq_iff (row : Word16) (op : BitVec 2) :
    row &&& 0x0300 = op.setWidth 16 <<< 8 ↔ row.extractLsb' 8 2 = op :=
  and_mask_eq_iff 8 (by decide) row op

theorem decodeEffect_of_masked {row : Word16} {op : BitVec 2} (h : row &&& 0x0300 = op.setWidth 16 <<< 8) :
    decodeEffect row =
      if op = 0 then .erel (row.extractLsb' 0 8)
      else if op = 1 then .eabs (row.extractLsb' 0 8)
      else if op = 2 then .edet (row.extractLsb' 0 8)
      else .ersv (row.extractLsb' 0 8) := by
  rw [← (and_0x0300_eq_iff row op).mp h]
  rfl

/-! The four rows: what each makes of the base note. -/

/-- The raw fine pitch is no register: writing it leaves everything else as it was (R250). -/
theorem effectRowFrame_withPfRaw (s : State) (raw : Int) : EffectRowFrame s (s.withPfRaw raw) :=
  ⟨⟨rfl, fun _ => rfl⟩, ⟨rfl, rfl, rfl, rfl, rfl⟩, rfl, rfl, rfl, rfl, rfl, rfl, fun _ => ⟨rfl, rfl⟩⟩

theorem exec_erel (value : BitVec 8) (s : State) : exec (.erel value) s =
    .next (s.withPfRaw (((s.activeVoice.note.toNat : Int) + ((value.toNat : Int) - 48)) * (fine s.build : Int))) := rfl

theorem exec_eabs (value : BitVec 8) (s : State) :
    exec (.eabs value) s = .next (s.withPfRaw ((value.toNat : Int) * (fine s.build : Int))) := rfl

theorem exec_edet (value : BitVec 8) (s : State) : exec (.edet value) s =
    .next (s.withPfRaw ((s.activeVoice.note.toNat : Int) * (fine s.build : Int) + ((value.toNat : Int) - 48))) := rfl

theorem exec_ersv (value : BitVec 8) (s : State) :
    exec (.ersv value) s = .next (s.withPfRaw ((s.activeVoice.note.toNat : Int) * (fine s.build : Int))) := rfl

/-- Settles O16: opcode 0, and the row that offsets the note before it is scaled. -/
theorem erelOffsetsTheNote : Obligations.ErelOffsetsTheNote := by
  unfold Obligations.ErelOffsetsTheNote
  refine ⟨fun row h => decodeEffect_of_masked (op := 0) h, fun value s => ?_⟩
  exact ⟨_, exec_erel value s, State.withPfRaw_pfRaw s _, effectRowFrame_withPfRaw s _⟩

/-- Settles O17: opcode 1, and the row that takes its value for the note. -/
theorem eabsReplacesTheNote : Obligations.EabsReplacesTheNote := by
  unfold Obligations.EabsReplacesTheNote
  refine ⟨fun row h => decodeEffect_of_masked (op := 1) h, fun value s => ?_⟩
  exact ⟨_, exec_eabs value s, State.withPfRaw_pfRaw s _, effectRowFrame_withPfRaw s _⟩

/-- Settles O18: opcode 2, and the row that offsets the note after it is scaled. -/
theorem edetOffsetsByFineSteps : Obligations.EdetOffsetsByFineSteps := by
  unfold Obligations.EdetOffsetsByFineSteps
  refine ⟨fun row h => decodeEffect_of_masked (op := 2) h, fun value s => ?_⟩
  exact ⟨_, exec_edet value s, State.withPfRaw_pfRaw s _, effectRowFrame_withPfRaw s _⟩

/-- Settles O19: opcode 3, and the row that hands the note on. -/
theorem ersvContributesNothing : Obligations.ErsvContributesNothing := by
  unfold Obligations.ErsvContributesNothing
  refine ⟨fun row h => decodeEffect_of_masked (op := 3) h, fun value s => ?_⟩
  exact ⟨_, exec_ersv value s, State.withPfRaw_pfRaw s _, effectRowFrame_withPfRaw s _⟩

/-! The pitch path (R256 to R258). -/

theorem pitchClamp_eq (b : Build) (raw : Int) :
    pitchClamp b raw = (max (fine b : Int) (min (96 * (fine b : Int)) raw)).toNat := by
  rw [pitchClamp, clampInt, Nat.cast_mul, Nat.cast_ofNat]

/-- The clamped pitch is one of a note in 1..96, the domain of the ROM (R256, R260). -/
theorem pitchClamp_mem (b : Build) (raw : Int) : fine b ≤ pitchClamp b raw ∧ pitchClamp b raw ≤ 96 * fine b := by
  rw [pitchClamp_eq]
  omega

theorem pitchFreq_eq (b : Build) (note : BitVec 8) (raw : Int) :
    pitchFreq b note raw =
      if note = 0 then 0 else freqRom b (max (fine b : Int) (min (96 * (fine b : Int)) raw)).toNat := by
  rw [pitchFreq, pitchClamp_eq]

/-- Settles O20: the pitch path is one update of the active channel, by the ROM at the clamped pitch. -/
theorem pitchPathWritesTheFrequency : Obligations.PitchPathWritesTheFrequency := by
  unfold Obligations.PitchPathWritesTheFrequency
  intro s pf
  have hpf : pitchClamp s.build s.pfRaw = pf := pitchClamp_eq s.build s.pfRaw
  obtain ⟨hlow, hhigh⟩ := pitchClamp_mem s.build s.pfRaw
  refine ⟨hpf ▸ hlow, hpf ▸ hhigh, fun hactive => ?_, oneVoiceFrame_modVoice s.active s _⟩
  rw [pitchPath_eq, State.modActive, State.voice_modVoice_same _ _ _ hactive, pitchFreq_eq]

/-! The frequency after a running TICK (R251 to R258). -/

/-- An effect program that does not execute leaves the base note's pitch (R255). -/
theorem effectPitch_of_no_plan {s : State} {v : Voice} (h : effectPlanOf s v = none) :
    effectPitch s v = (v.note.toNat : Int) * (fine s.build : Int) := by
  simp only [effectPitch, h]

/-- An effect program that executes leaves the pitch of one row over the base note (R250). -/
theorem effectPitch_of_plan {s : State} {v : Voice} {p : Nat} {next : BitVec 8}
    (h : effectPlanOf s v = some (p, next)) :
    effectPitch s v = effectRowPitch s.build (s.fxWord v.curFx.toNat (1 + p)) v.note := by
  simp only [effectPitch, h]

/-- The raw fine pitch of an effect row, by its opcode bits tested in place (R251 to R254). -/
theorem effectRowPitch_of_masked (b : Build) (row : Word16) (note : BitVec 8) :
    let value : Int := (row.extractLsb' 0 8).toNat
    effectRowPitch b row note =
      if row &&& 0x0300 = 0x0000 then ((note.toNat : Int) + (value - 48)) * (fine b : Int)
      else if row &&& 0x0300 = 0x0100 then value * (fine b : Int)
      else if row &&& 0x0300 = 0x0200 then (note.toNat : Int) * (fine b : Int) + (value - 48)
      else (note.toNat : Int) * (fine b : Int) := by
  have hrel : row &&& 0x0300 = 0x0000 ↔ row.extractLsb' 8 2 = 0 := and_0x0300_eq_iff row 0
  have habs : row &&& 0x0300 = 0x0100 ↔ row.extractLsb' 8 2 = 1 := and_0x0300_eq_iff row 1
  have hdet : row &&& 0x0300 = 0x0200 ↔ row.extractLsb' 8 2 = 2 := and_0x0300_eq_iff row 2
  simp only [effectRowPitch, effectOffset, hrel, habs, hdet]

/-- Settles O32: the pitch path alone writes the frequency, and the effect interpreter's plan says by which row. -/
theorem tickWritesTheFrequencyOfTheEffectRow : Obligations.TickWritesTheFrequencyOfTheEffectRow := by
  unfold Obligations.TickWritesTheFrequencyOfTheEffectRow
  intro s hrun hl
  refine ⟨tickRunning s, exec_tick_of_run hrun, fun c hc => ?_⟩
  intro v note step header lenE loopE p row value raw
  obtain ⟨-, htickFreq⟩ := tickRunning_flags_freq hl hc
  have hraw : effectPitch s v = raw := by
    by_cases hnothing : v.curFx = 0 ∨ lenE = 0
    · rw [effectPitch_of_no_plan (assignedPlan_eq_none v.fxPos hnothing)]
      exact (if_pos hnothing).symm
    · obtain ⟨hassigned, hlen⟩ := not_or.mp hnothing
      rw [effectPitch_of_plan (assignedPlan_eq_some v.fxPos hassigned (Nat.pos_of_ne_zero hlen))]
      exact (effectRowPitch_of_masked s.build row v.note).trans (if_neg hnothing).symm
  rw [htickFreq, interpVoice, hraw]
  exact pitchFreq_eq s.build v.note raw

/-! The frequency ROM (R260, R261). -/

/-- REFCFG's semitone values do not decrease from note 1 to note 96: each is at most the next (R261). -/
theorem monotoneOn_semitone : MonotoneOn semitone (Set.Icc 1 96) := by
  have hnext : ∀ n < 95, semitone (n + 1) ≤ semitone (n + 1 + 1) := by decide
  refine monotoneOn_of_le_add_one Set.ordConnected_Icc fun n _ hn hn' => ?_
  obtain ⟨m, rfl⟩ := Nat.exists_eq_add_of_le' hn.1
  exact hnext m (by have := hn'.2; omega)

/-- The interpolation of R261 covers the semitones themselves, where it adds nothing. -/
theorem referenceFreq_eq (pf : Nat) :
    referenceFreq pf = semitone (pf / 16) + (semitone (pf / 16 + 1) - semitone (pf / 16)) * (pf % 16) / 16 := by
  simp only [referenceFreq]
  split
  next hsemitone => rw [hsemitone, Nat.mul_zero, Nat.zero_div, Nat.add_zero]
  next => rfl

theorem semitone_le_referenceFreq (pf : Nat) : semitone (pf / 16) ≤ referenceFreq pf :=
  referenceFreq_eq pf ▸ Nat.le_add_right _ _

/-- An interpolated value does not pass the next semitone. -/
theorem referenceFreq_le_semitone {pf : Nat} (hnext : semitone (pf / 16) ≤ semitone (pf / 16 + 1)) :
    referenceFreq pf ≤ semitone (pf / 16 + 1) := by
  have hpart : (semitone (pf / 16 + 1) - semitone (pf / 16)) * (pf % 16) / 16
      ≤ semitone (pf / 16 + 1) - semitone (pf / 16) :=
    Nat.div_le_of_le_mul ((Nat.mul_le_mul_left _ (Nat.mod_lt pf (by decide)).le).trans_eq (Nat.mul_comm ..))
  rw [referenceFreq_eq]
  omega

/-- REFCFG's ROM is non-decreasing: within one semitone by the interpolation, else by the semitone values between
(R260, R261). -/
theorem referenceFreq_le_referenceFreq {p q : Nat} (hp : 16 ≤ p) (hpq : p ≤ q) (hq : q ≤ 1536) :
    referenceFreq p ≤ referenceFreq q := by
  obtain hsame | hbelow : p / 16 = q / 16 ∨ p / 16 + 1 ≤ q / 16 := by omega
  · have hrest : p % 16 ≤ q % 16 := by omega
    rw [referenceFreq_eq, referenceFreq_eq, hsame]
    gcongr
  · have hnote : p / 16 ∈ Set.Icc 1 96 := ⟨by omega, by omega⟩
    have hnext : p / 16 + 1 ∈ Set.Icc 1 96 := ⟨by omega, by omega⟩
    have hlast : q / 16 ∈ Set.Icc 1 96 := ⟨by omega, by omega⟩
    calc referenceFreq p ≤ semitone (p / 16 + 1) :=
          referenceFreq_le_semitone (monotoneOn_semitone hnote hnext (Nat.le_succ _))
      _ ≤ semitone (q / 16) := monotoneOn_semitone hnext hlast hbelow
      _ ≤ referenceFreq q := semitone_le_referenceFreq q

/-- The order of numbers that fit is that of their words. -/
theorem toNat_ofNat_le_toNat_ofNat {w a b : Nat} (hab : a ≤ b) (hb : b < 2 ^ w) :
    (BitVec.ofNat w a).toNat ≤ (BitVec.ofNat w b).toNat := by
  rwa [BitVec.toNat_ofNat, BitVec.toNat_ofNat, Nat.mod_eq_of_lt (hab.trans_lt hb), Nat.mod_eq_of_lt hb]

/-- Settles O51: REFCFG's table by its interpolation, any other as a running maximum; both fit the register. -/
theorem frequencyRomIsNonDecreasing : Obligations.FrequencyRomIsNonDecreasing := by
  unfold Obligations.FrequencyRomIsNonDecreasing
  intro b p q hp hpq hq
  cases b with
  | reference =>
    have htop : referenceFreq q ≤ referenceFreq 1536 := referenceFreq_le_referenceFreq (hp.trans hpq) hq le_rfl
    have hfits : referenceFreq 1536 < 2 ^ 24 := by decide
    exact toNat_ofNat_le_toNat_ofNat (referenceFreq_le_referenceFreq hp hpq hq) (htop.trans_lt hfits)
  | other n =>
    have hmax : ∀ lo k, runningMax (fun i => min (Config.openFreq n i) envMax) lo k ≤ envMax :=
      fun lo k => (runningMax_le_iff ..).mpr fun _ _ => min_le_right _ _
    have hfits : envMax < 2 ^ 24 := by decide
    exact toNat_ofNat_le_toNat_ofNat (runningMax_le_runningMax _ le_rfl (by omega)) ((hmax _ _).trans_lt hfits)

end Sys2Proof.Machine
end

/-! The shared filter and the mixer (`46_filter_mixer_tick.md`): the sums that a running TICK filters and mixes, over the
registers it leaves, and the headroom that makes room for them (R270 to R293). -/
section
namespace Sys2Proof.Machine

/-! The headroom (R281). -/

/-- The cases R281 lists are the ceiling of the binary logarithm. -/
theorem headroomShift_eq_clog (b : Build) : headroomShift b = Nat.clog 2 (channelCount b) := by
  have hcases : ∀ n < 16,
      (if n ≤ 1 then 0 else if n ≤ 2 then 1 else if n ≤ 4 then 2 else if n ≤ 8 then 3 else 4) = Nat.clog 2 n := by
    decide
  obtain ⟨-, hmax⟩ := channelCount_bounds b
  exact hcases _ (Nat.lt_succ_of_le hmax)

theorem channelCount_le_two_pow_headroomShift (b : Build) : channelCount b ≤ 2 ^ headroomShift b :=
  headroomShift_eq_clog b ▸ Nat.le_pow_clog Nat.one_lt_two _

/-- The scaled sample, with the bounds of sixteen signed bits as numbers. -/
theorem headroom_eq (b : Build) (mix : Int) :
    headroom b mix = max (-32768) (min 32767 (mix / ((2 ^ headroomShift b : Nat) : Int))) := rfl

/-- The shift brings a mix of CHANNEL_COUNT full outputs back to one. -/
theorem asr_headroomShift_mem {b : Build} {mix : Int}
    (h : -(32640 * (channelCount b : Int)) ≤ mix ∧ mix ≤ 32640 * (channelCount b : Int)) :
    -32640 ≤ asr mix (headroomShift b) ∧ asr mix (headroomShift b) ≤ 32640 := by
  obtain ⟨hlow, hhigh⟩ := h
  have hroom := channelCount_le_two_pow_headroomShift b
  have hpos : 0 < 2 ^ headroomShift b := Nat.two_pow_pos _
  constructor
  · exact Int.le_ediv_of_mul_le (by omega) (by omega)
  · exact Int.ediv_le_of_le_mul (by omega) (by omega)

/-- A mix within CHANNEL_COUNT full outputs does not clip. -/
theorem headroom_eq_asr {b : Build} {mix : Int}
    (h : -(32640 * (channelCount b : Int)) ≤ mix ∧ mix ≤ 32640 * (channelCount b : Int)) :
    headroom b mix = asr mix (headroomShift b) := by
  have hscaled := asr_headroomShift_mem h
  rw [headroom_eq, ← asr]
  omega

/-- Settles O40: the shift is a ceiling of a logarithm, and within the room it makes nothing clips. -/
theorem headroomKeepsUnfilteredVoicesFromClipping : Obligations.HeadroomKeepsUnfilteredVoicesFromClipping := by
  unfold Obligations.HeadroomKeepsUnfilteredVoicesFromClipping
  refine fun b => ⟨channelCount_le_two_pow_headroomShift b, fun k hk => ?_, headroom_eq b, fun out hout => ?_⟩
  · exact headroomShift_eq_clog b ▸ Nat.clog_le_of_le_pow hk
  · exact headroom_eq_asr (sumBelow_abs_le _ hout)

/-! The sums of a TICK. -/

/-- The sum of the outputs of a state's audible channels whose routing bit is `routed`: what `mixOut` adds up in a running
TICK, by the registers that TICK leaves (`tickRunning_mix`). -/
def audibleSum (t : State) (routed : Bool) : Int :=
  sumBelow (shareOf t (fun c => voiceOut (ringWave t c) (t.voice c)) routed) (channelCount t.build)

/-- Envelopes change no waveform: they write stage and level alone (R154 to R159). -/
theorem ringWave_envelopeAll {s : State} (hl : s.voices.length = channelCount s.build) {c : Nat}
    (hc : c < channelCount s.build) : ringWave (envelopeAll s) c = ringWave s c := by
  have hvoice : ∀ d < channelCount s.build,
      (envelopeAll s).voice d = envelope s.build (s.adsr (s.voice d)) (s.voice d) :=
    fun d hd => envelopeAll_voice s d (hl ▸ hd)
  have hbuild : (envelopeAll s).build = s.build := rfl
  simp only [ringWave, hbuild, hvoice c hc, hvoice _ (neighbour_lt s.build c)]
  rfl

/-- The filter step from the memory of `s` on the routed sum and under the filter registers of `t`: that of the running
TICK that leads from `s` to `t` (`tickRunning_mix`; R272). -/
def filterStepBetween (s t : State) : FilterMem × Int :=
  filterStepFn s.build s.fState (audibleSum t true) t.fCutoff t.fRes t.fType

/-- Phases 4 and 5: the sums, taken with the waveforms before the envelopes moved, are those over the registers that stand
afterwards (R290). -/
theorem mixOut_envelopeAll {s : State} (hl : s.voices.length = channelCount s.build) :
    let t := mixOut (envelopeAll s) fun c => voiceOut (ringWave s c) ((envelopeAll s).voice c)
    t.fState = (filterStepBetween s t).1
      ∧ t.sampleOut = BitVec.ofInt 16 (headroom s.build (audibleSum t false + (filterStepBetween s t).2)) := by
  intro t
  have hsum : ∀ routed,
      sumBelow (shareOf (envelopeAll s) (fun c => voiceOut (ringWave s c) ((envelopeAll s).voice c)) routed)
        (channelCount s.build) = audibleSum t routed :=
    fun routed => sumBelow_congr fun c hc => by
      simp only [shareOf, ← ringWave_envelopeAll hl hc]
      rfl
  rw [filterStepBetween, ← hsum true, ← hsum false]
  exact ⟨rfl, rfl⟩

/-- What a running TICK mixes: one filter step on the routed sum, and the scaled sum of its output and the direct path
(R270 to R273, R280 to R282). -/
theorem tickRunning_mix {s : State} (hl : s.voices.length = channelCount s.build) :
    (tickRunning s).fState = (filterStepBetween s (tickRunning s)).1
      ∧ (tickRunning s).sampleOut = BitVec.ofInt 16
          (headroom s.build (audibleSum (tickRunning s) false + (filterStepBetween s (tickRunning s)).2)) := by
  obtain ⟨hframe, -, -⟩ := interpretAll_spec s hl
  obtain ⟨hbuild, -, -⟩ := hframe.program
  have hlength : (oscillateAll (interpretAll s)).voices.length = channelCount (interpretAll s).build := by
    rw [hbuild, ← hl, ← hframe.length]
    exact List.length_mapIdx
  have hmix := mixOut_envelopeAll hlength
  have hfilter : filterStepBetween (oscillateAll (interpretAll s)) = filterStepBetween s := by
    funext t
    simp only [filterStepBetween, ← hbuild, ← hframe.fState]
    rfl
  have hbuild' : (oscillateAll (interpretAll s)).build = s.build := hbuild
  rwa [hfilter, hbuild'] at hmix

theorem tickRunning_sampleOut_toInt {s : State} (hl : s.voices.length = channelCount s.build) :
    (tickRunning s).sampleOut.toInt =
      headroom s.build (audibleSum (tickRunning s) false + (filterStepBetween s (tickRunning s)).2) := by
  obtain ⟨-, hsample⟩ := tickRunning_mix hl
  rw [hsample, headroom, sat16_toInt]
  rfl

/-- Settles O37: the sums over lists of channels are the sums that the TICK filters and mixes. -/
theorem tickMixesTheAudibleVoices : Obligations.TickMixesTheAudibleVoices := by
  unfold Obligations.TickMixesTheAudibleVoices
  intro s hrun hl
  refine ⟨tickRunning s, exec_tick_of_run hrun, ?_⟩
  intro out sumOf r
  obtain ⟨⟨hbuild, -, -⟩, -⟩ := tickRunning_frame hl
  have hsum : ∀ routed, sumOf routed = audibleSum (tickRunning s) routed := fun routed => by
    rw [audibleSum, hbuild]
    exact sumBelow_eq_sum _ _
  have hstep : r = filterStepBetween s (tickRunning s) := by
    simp only [r, hsum]
    rfl
  obtain ⟨hstate, -⟩ := tickRunning_mix hl
  rw [hstep, hsum]
  exact ⟨hstate, tickRunning_sampleOut_toInt hl⟩

/-! The unrouted TICK (R274, R293). -/

/-- A channel's share of either sum is within its output's bounds (R170, R270). -/
theorem shareOf_voiceOut_mem (t : State) (routed : Bool) (c : Nat) :
    -32640 ≤ shareOf t (fun c => voiceOut (ringWave t c) (t.voice c)) routed c
      ∧ shareOf t (fun c => voiceOut (ringWave t c) (t.voice c)) routed c ≤ 32640 := by
  obtain ⟨-, -, hlow, hhigh⟩ := voiceOutputIsBounded (ringWave t c) (t.voice c)
  rw [shareOf]
  split <;> omega

theorem audibleSum_mem (t : State) (routed : Bool) :
    -(32640 * (channelCount t.build : Int)) ≤ audibleSum t routed
      ∧ audibleSum t routed ≤ 32640 * (channelCount t.build : Int) :=
  sumBelow_abs_le _ (shareOf_voiceOut_mem t routed)

theorem sumBelow_eq_zero {f : Nat → Int} (h : ∀ c, f c = 0) (n : Nat) : sumBelow f n = 0 := by
  induction n with
  | zero => rfl
  | succ n ih => rw [sumBelow, ih, h, Int.add_zero]

/-- With no channel routed the filter's input is 0 (R270). -/
theorem audibleSum_routed_of_unrouted {t : State} (h : t.fRoute = 0) : audibleSum t true = 0 :=
  sumBelow_eq_zero (fun c => if_neg fun ⟨_, hrouted⟩ => by simp [h] at hrouted) _

/-- From its initial state an unrouted filter step answers 0 and stays there (R274). -/
theorem filterStepBetween_of_unrouted {s t : State} (hinit : s.fState = filterInit s.build) (hroute : t.fRoute = 0) :
    filterStepBetween s t = (filterInit s.build, 0) := by
  rw [filterStepBetween, hinit, audibleSum_routed_of_unrouted hroute, filterStepFn_filterInit]

/-- Settles O41: the bounds of each voice bound the sums, and a filter that answers 0 leaves the direct sum, for which
there is room. -/
theorem unroutedTickIsTheExactSum : Obligations.UnroutedTickIsTheExactSum := by
  unfold Obligations.UnroutedTickIsTheExactSum
  intro s hrun hl
  refine ⟨tickRunning s, exec_tick_of_run hrun, ?_⟩
  intro sumOf
  obtain ⟨⟨hbuild, -, -⟩, -⟩ := tickRunning_frame hl
  have hsum : ∀ routed, sumOf routed = audibleSum (tickRunning s) routed := fun routed => by
    rw [audibleSum, hbuild]
    rfl
  have hbounds := audibleSum_mem (tickRunning s)
  rw [hbuild] at hbounds
  simp only [hsum]
  refine ⟨hbounds, fun hinit hroute => ?_⟩
  have hstep := filterStepBetween_of_unrouted hinit hroute
  have hsample : (tickRunning s).sampleOut.toInt = asr (audibleSum (tickRunning s) false) (headroomShift s.build) := by
    rw [tickRunning_sampleOut_toInt hl, hstep, Int.add_zero, headroom_eq_asr (hbounds false)]
  obtain ⟨hstate, -⟩ := tickRunning_mix hl
  rw [hsample]
  exact ⟨hstate.trans (congrArg Prod.fst hstep), audibleSum_routed_of_unrouted hroute, rfl,
    asr_headroomShift_mem (hbounds false)⟩

/-! The stopped TICK (R291). -/

/-- Settles O29: a TICK that does not run writes the output register alone. -/
theorem stoppedTickEmitsZeroAndFreezes : Obligations.StoppedTickEmitsZeroAndFreezes := by
  unfold Obligations.StoppedTickEmitsZeroAndFreezes
  intro s hrun
  rw [exec_eq_next, nextState, tickCmd_of_stopped hrun]
  rfl

end Sys2Proof.Machine
end

/-! The samples of `fill_buffer` (R309): one pass has one outcome and stores one sample, and a buffer is as many passes one
after the other, whether one call asks for them or two (R292). -/
section
namespace Sys2Proof.Machine

/-- The events of the block, such as the commands a transport operation issues, are all applied, and the host agent stands
(R5, R330). -/
theorem exists_applied_instrs {es : List Event} (hes : ∀ e ∈ es, (eventInstr e).isSome) (s : State) :
    ∃ t, Applied es s t ∧ t.transport = s.transport := by
  induction es generalizing s with
  | nil => exact ⟨s, applied_nil s, rfl⟩
  | cons e es ih =>
    obtain ⟨he, hrest⟩ := List.forall_mem_cons.mp hes
    obtain ⟨i, hi⟩ := Option.isSome_iff_exists.mp he
    obtain ⟨t, happlied, htransport⟩ := ih hrest (nextState i s)
    exact ⟨t, applied_cons (presented_instr s hi) happlied, htransport.trans (nextState_transport i s)⟩

/-- A row's dispatch issues commands and nothing else (R310). -/
theorem isSome_eventInstr_of_mem_dispatchBelow {s : State} {n : Nat} : ∀ e ∈ dispatchBelow s n, (eventInstr e).isSome := by
  induction n with
  | zero => exact fun _ he => absurd he List.not_mem_nil
  | succ n ih =>
    intro e he
    obtain hbelow | hlast := List.mem_append.mp he
    · exact ih e hbelow
    · simp only [dispatchChannel] at hlast
      split at hlast
      · rw [List.mem_singleton.mp hlast]
        rfl
      · exact absurd hlast List.not_mem_nil

theorem dispatchBelow_withPending (s : State) (es : List Event) (n : Nat) :
    dispatchBelow (s.withPending es) n = dispatchBelow s n := by
  induction n with
  | zero => rfl
  | succ n ih => rw [dispatchBelow, ih]; rfl

/-- An event of the host agent that rewrites the transport and issues commands is applied when they are, and they leave the
transport it wrote. -/
theorem exists_presented_host {e : Event} {es : List Event} {s : State} {x : Transport} (he : eventInstr e = none)
    (hes : ∀ e ∈ es, (eventInstr e).isSome) (hop : ∀ rest, hostEvent e (s.withPending rest) = s.withHost (es ++ rest) x) :
    ∃ t, Presented e s t ∧ t.transport = x := by
  obtain ⟨t, happlied, htransport⟩ := exists_applied_instrs hes (s.withTransport x)
  exact ⟨t, presented_host (u := s.withTransport x) he hop happlied, htransport⟩

/-- All the end of a row can do to the host agent: it moves the position, keeps the samples stored and issues commands, those
of `stop()` at the end of the Song and none elsewhere (R312). -/
theorem exists_endRow_eq (s : State) : ∃ (x : Transport) (es : List Event), x.dest = s.transport.dest
    ∧ (∀ e ∈ es, (eventInstr e).isSome) ∧ ∀ rest, endRow (s.withPending rest) = s.withHost (es ++ rest) x := by
  have hstop : ∀ e ∈ [Event.command (runCommandWord false), .command silenceCommandWord], (eventInstr e).isSome := by
    simp [eventInstr]
  by_cases hblockEnds : trackLength s.build ≤ s.transport.row + 1
  · by_cases hsongEnds : s.transport.song.tableLength.toNat ≤ s.transport.block + 1
    · by_cases hloop : s.transport.blockLoop
      · exact ⟨{ s.transport with frame := 0, row := 0, block := 0 }, [], rfl, nofun,
          fun _ => (if_pos hblockEnds).trans ((if_pos hsongEnds).trans (if_pos hloop))⟩
      · exact ⟨{ s.transport with tstate := .stopped, block := 0, row := 0, frame := 0 }, _, rfl, hstop,
          fun _ => (if_pos hblockEnds).trans ((if_pos hsongEnds).trans (if_neg hloop))⟩
    · exact ⟨{ s.transport with frame := 0, row := 0, block := s.transport.block + 1 }, [], rfl, nofun,
        fun _ => (if_pos hblockEnds).trans (if_neg hsongEnds)⟩
  · exact ⟨{ s.transport with frame := 0, row := s.transport.row + 1 }, [], rfl, nofun, fun _ => if_neg hblockEnds⟩

theorem exists_presented_advanceFrame (s : State) :
    ∃ t, Presented .advanceFrame s t ∧ t.transport.dest = s.transport.dest := by
  by_cases hfull : rowLen s.build s.transport.song s.transport.row ≤ s.transport.frame + 1
  · obtain ⟨x, es, hdest, hes, hendRow⟩ := exists_endRow_eq (s.modTransport fun t => { t with frame := t.frame + 1 })
    obtain ⟨t, hadvance, rfl⟩ := exists_presented_host (e := .advanceFrame) (s := s) rfl hes
      fun rest => (if_pos hfull).trans (hendRow rest)
    exact ⟨t, hadvance, hdest⟩
  · exact ⟨_, presented_host_alone (t := s.modTransport fun t => { t with frame := t.frame + 1 }) rfl
      fun _ => if_neg hfull, rfl⟩

/-- The strobe and the store of one pass: the block's sample becomes the buffer's last (R309). -/
theorem applied_tick_storeSample (s : State) :
    Applied [.tick, .storeSample] s (storeSampleOp (nextState .tick s)) :=
  applied_cons (presented_instr s rfl) (presented_host_alone rfl fun _ => rfl)

theorem storeSampleOp_tick_dest (s : State) :
    (storeSampleOp (nextState .tick s)).transport.dest = s.transport.dest ++ [(nextState .tick s).sampleOut] := by
  rw [← nextState_transport .tick s]
  rfl

/-- The commands a pass issues: those of the row on its first sample (R309, R310). -/
def passCommands (s : State) : List Event :=
  if s.transport.frame = 0 then dispatchBelow s (channelCount s.build) else []

theorem isSome_eventInstr_of_mem_passCommands (s : State) : ∀ e ∈ passCommands s, (eventInstr e).isSome := by
  unfold passCommands
  split
  · exact isSome_eventInstr_of_mem_dispatchBelow
  · exact nofun

theorem sampleOp_of_playing {s : State} (h : s.transport.tstate = .playing) (rest : List Event) :
    sampleOp (s.withPending rest) =
      s.withPending (passCommands s ++ ([.tick, .storeSample] ++ [.advanceFrame]) ++ rest) := by
  have htstate : (s.withPending rest).transport.tstate = .playing := h
  have hcommands : passCommands (s.withPending rest) = passCommands s := by
    unfold passCommands
    rw [dispatchBelow_withPending]
    rfl
  rw [← hcommands]
  simp only [sampleOp, htstate]
  rfl

theorem sampleOp_of_not_playing {s : State} (h : s.transport.tstate ≠ .playing) (rest : List Event) :
    sampleOp (s.withPending rest) = s.withPending ([.tick, .storeSample] ++ rest) := by
  simp only [sampleOp]
  split
  next hplaying => exact absurd hplaying h
  next => rfl
  next => rfl

/-- One pass of `fill_buffer` stores one sample, whatever the transport does in it (R309). -/
theorem exists_presented_sample (s : State) :
    ∃ t, Presented .sample s t ∧ ∃ sample, t.transport.dest = s.transport.dest ++ [sample] := by
  by_cases hplaying : s.transport.tstate = .playing
  · obtain ⟨u, hdispatch, htransport⟩ := exists_applied_instrs (isSome_eventInstr_of_mem_passCommands s) s
    obtain ⟨t, hadvance, hdest⟩ := exists_presented_advanceFrame (storeSampleOp (nextState .tick u))
    have hevents := applied_append hdispatch (applied_append (applied_tick_storeSample u) hadvance)
    rw [storeSampleOp_tick_dest, htransport] at hdest
    exact ⟨t, presented_host rfl (sampleOp_of_playing hplaying) hevents, _, hdest⟩
  · exact ⟨_, presented_host rfl (sampleOp_of_not_playing hplaying) (applied_tick_storeSample s), _,
      storeSampleOp_tick_dest s⟩

/-- As many passes as the count asks for, one after the other (R309). -/
theorem presented_fillBuffer_iterate {pass : State → State} (hpass : ∀ s, Presented .sample s (pass s)) (n : Nat)
    (s : State) : Presented (.fillBuffer n) s (pass^[n] s) := by
  induction n generalizing s with
  | zero => exact presented_fillBuffer_zero s
  | succ n ih => exact presented_fillBuffer_succ (hpass s) (ih (pass s))

theorem iterate_dest {pass : State → State}
    (hpass : ∀ s, ∃ sample, (pass s).transport.dest = s.transport.dest ++ [sample]) (n : Nat) (s : State) :
    ∃ samples, (pass^[n] s).transport.dest = s.transport.dest ++ samples ∧ samples.length = n := by
  induction n generalizing s with
  | zero => exact ⟨[], (List.append_nil _).symm, rfl⟩
  | succ n ih =>
    obtain ⟨sample, hsample⟩ := hpass s
    obtain ⟨samples, hsamples, hlength⟩ := ih (pass s)
    refine ⟨sample :: samples, ?_, congrArg Nat.succ hlength⟩
    rw [Function.iterate_succ_apply, hsamples, hsample, List.append_assoc]
    rfl

/-- Settles O53: one call makes `a + b` passes, two calls make `a` and then `b`. -/
theorem fillBufferIsChunkIndependent : Obligations.FillBufferIsChunkIndependent := by
  unfold Obligations.FillBufferIsChunkIndependent
  intro s a b
  choose pass hpass hdest using exists_presented_sample
  have hfill := presented_fillBuffer_iterate hpass
  have htwo : Applied [.fillBuffer a, .fillBuffer b] s (pass^[a + b] s) := by
    rw [Nat.add_comm, Function.iterate_add_apply]
    exact applied_cons (hfill a s) (hfill b _)
  exact ⟨_, drains_of_applied htwo, drains_of_applied (hfill (a + b) s), iterate_dest hdest (a + b) s⟩

end Sys2Proof.Machine
end

/-! No run stops (R330): every step answers a next state, and so does every run. -/
section
namespace Sys2Proof.Machine

/-- A step stands still, executes an instruction or does an event of the host agent: none of these refuses or faults. -/
theorem exists_step_eq_next (s : State) : ∃ t, step s = .next t := by
  cases hpending : s.pending with
  | nil => exact ⟨s, step_empty hpending⟩
  | cons e rest =>
    cases hinstr : eventInstr e with
    | none => exact ⟨_, step_host hpending hinstr⟩
    | some i => exact ⟨_, (step_instr hpending hinstr).trans (exec_eq_next i _)⟩

/-- Settles O43, by induction on the number of steps. -/
theorem noRunEverStops : Obligations.NoRunEverStops := by
  unfold Obligations.NoRunEverStops
  intro s k
  induction k generalizing s with
  | zero => exact ⟨s, rfl⟩
  | succ k ih =>
    obtain ⟨u, hstep⟩ := exists_step_eq_next s
    obtain ⟨t, hrun⟩ := ih u
    exact ⟨t, (run_succ k hstep).trans hrun⟩

end Sys2Proof.Machine
end

/-! The transport's operations (R301 to R305) and the editor's writes to the Song (R320, R321): what each does to the host
agent, and the commands it issues, which the block then executes. -/
section
namespace Sys2Proof.Machine

/-! play, pause and stop (R301 to R303). -/

theorem playOp_of_playing {s : State} (h : s.transport.tstate = .playing) : playOp s = s := by
  simp only [playOp, h]

theorem playOp_of_not_playing {s : State} (h : s.transport.tstate ≠ .playing) :
    playOp s = (s.withTransport { s.transport with tstate := .playing }).issue [.command (runCommandWord true)] := by
  unfold playOp
  split
  next hplaying => exact absurd hplaying h
  next => rfl
  next => rfl

theorem pauseOp_of_playing {s : State} (h : s.transport.tstate = .playing) :
    pauseOp s = (s.withTransport { s.transport with tstate := .paused }).issue [.command (runCommandWord false)] := by
  simp only [pauseOp, h]
  rfl

theorem pauseOp_of_not_playing {s : State} (h : s.transport.tstate ≠ .playing) : pauseOp s = s := by
  unfold pauseOp
  split
  next hplaying => exact absurd hplaying h
  next => rfl
  next => rfl

/-- Settles O55: play and pause write the phase and issue RUN, or do nothing. -/
theorem playAndPauseDriveTheRunRegister : Obligations.PlayAndPauseDriveTheRunRegister := by
  unfold Obligations.PlayAndPauseDriveTheRunRegister
  intro s playing paused
  refine ⟨fun h => ?_, fun h => ?_, fun h => ?_, fun h => ?_, rfl, rfl⟩
  · exact presented_host (u := s.withTransport playing.transport) rfl
      (fun rest => playOp_of_not_playing (s := s.withPending rest) h) (presented_runCommandWord true _)
  · exact presented_host_alone rfl fun rest => playOp_of_playing (s := s.withPending rest) h
  · exact presented_host (u := s.withTransport paused.transport) rfl
      (fun rest => pauseOp_of_playing (s := s.withPending rest) h) (presented_runCommandWord false _)
  · exact presented_host_alone rfl fun rest => pauseOp_of_not_playing (s := s.withPending rest) h

theorem decodeCommand_silenceCommandWord : decodeCommand silenceCommandWord = .silence :=
  decodeCommand_of_silence (commandWord_cop _ _ _)

theorem presented_silenceCommandWord (s : State) : Presented (.command silenceCommandWord) s (silenceCmd s) :=
  presented_instr (i := .silence) s (congrArg some decodeCommand_silenceCommandWord)

/-- The commands of `stop()`: RUN 0, then SILENCE (R303). -/
theorem applied_stopCommands (s : State) :
    Applied [.command (runCommandWord false), .command silenceCommandWord] s (silenceCmd (s.withRun false)) :=
  applied_cons (presented_runCommandWord false s) (presented_silenceCommandWord _)

/-- Settles O56: stop rewinds the transport and issues RUN 0 and SILENCE. -/
theorem stopRewindsAndSilences : Obligations.StopRewindsAndSilences := by
  unfold Obligations.StopRewindsAndSilences
  intro s
  let rewound := s.withTransport { s.transport with tstate := .stopped, block := 0, row := 0, frame := 0 }
  exact ⟨_, exec_eq_next .silence _, presented_host (u := rewound) rfl (fun _ => rfl) (applied_stopCommands rewound), rfl⟩

/-! Seeks (R304), and the editor's writes to the Song (R320, R321). -/

theorem seekTarget_of_blocks {song : Song} (h : 1 ≤ song.tableLength.toNat) (n : Nat) :
    seekTarget song n = min n (song.tableLength.toNat - 1) := by
  refine if_neg fun hzero => ?_
  rw [hzero] at h
  exact absurd h (by decide)

/-- Two entries of the block table stand at different places: a row of the table is 16 bytes, and no build has more channels
than that. -/
theorem tableAddr_ne {b c b' c' : Nat} (hc : c < 16) (hc' : c' < 16) (h : b' ≠ b ∨ c' ≠ c) :
    tableAddr b' c' ≠ tableAddr b c := by
  unfold tableAddr
  omega

/-- Two bytes of the tracks stand at different places if they differ in the track, the row or the byte. -/
theorem trackAddr_ne {build : Build} {t r k t' r' k' : Nat} (hr : r < trackLength build) (hr' : r' < trackLength build)
    (hk : k < 3) (hk' : k' < 3) (h : (t' ≠ t ∨ r' ≠ r) ∨ k' ≠ k) :
    trackAddr build t' r' k' ≠ trackAddr build t r k := by
  unfold trackAddr
  intro heq
  have hrow : trackLength build * t' + r' = trackLength build * t + r := by omega
  have hmod := congrArg (· % trackLength build) hrow
  have hdiv := congrArg (· / trackLength build) hrow
  simp only [Nat.mul_add_mod, Nat.mod_eq_of_lt, hr, hr'] at hmod
  simp only [Nat.mul_add_div (Nat.zero_lt_of_lt hr), Nat.div_eq_of_lt, hr, hr', Nat.add_zero] at hdiv
  omega

theorem setTableOp_inside {b c : Nat} {s : State} (hb : b < maxSongLength s.build) (hc : c < channelCount s.build)
    (x : Byte) : setTableOp b c x s = s.modSong fun g => { g with table := writeByte g.table (tableAddr b c) x } :=
  if_pos ⟨hb, hc⟩

theorem setTrackRowOp_inside {t r : Nat} {s : State} (ht : 1 ≤ t) (htracks : t ≤ trackCount s.build)
    (hr : r < trackLength s.build) (note ins fx : Byte) :
    setTrackRowOp t r note ins fx s =
      s.modSong fun g => { g with tracks := writeTrackRow s.build t r note ins fx g.tracks } :=
  if_pos ⟨ht, htracks, hr⟩

/-- A track row just written reads back in its three bytes. -/
theorem readByte_writeTrackRow_same {build : Build} {t r : Nat} (hr : r < trackLength build) (note ins fx : Byte)
    {m : Memory} (hm : m.wf = true) :
    readByte (writeTrackRow build t r note ins fx m) (trackAddr build t r 0) = note
      ∧ readByte (writeTrackRow build t r note ins fx m) (trackAddr build t r 1) = ins
      ∧ readByte (writeTrackRow build t r note ins fx m) (trackAddr build t r 2) = fx := by
  have hne {k k' : Nat} (hk : k < 3) (hk' : k' < 3) (h : k' ≠ k) : trackAddr build t r k' ≠ trackAddr build t r k :=
    trackAddr_ne hr hr hk hk' (.inr h)
  have hnote := writeByte_wf hm (trackAddr build t r 0) note
  have hins := writeByte_wf hnote (trackAddr build t r 1) ins
  unfold writeTrackRow
  refine ⟨?_, ?_, readByte_writeByte_same hins _ _⟩
  · rw [readByte_writeByte_other (hne (by decide) (by decide) (by decide)),
      readByte_writeByte_other (hne (by decide) (by decide) (by decide)), readByte_writeByte_same hm]
  · rw [readByte_writeByte_other (hne (by decide) (by decide) (by decide)), readByte_writeByte_same hnote]

/-- A write of a track row leaves the bytes of every other row. -/
theorem readByte_writeTrackRow_other {build : Build} {t r t' r' k : Nat} (hr : r < trackLength build)
    (hr' : r' < trackLength build) (hk : k < 3) (h : t' ≠ t ∨ r' ≠ r) (note ins fx : Byte) (m : Memory) :
    readByte (writeTrackRow build t r note ins fx m) (trackAddr build t' r' k) =
      readByte m (trackAddr build t' r' k) := by
  have hne {j : Nat} (hj : j < 3) : trackAddr build t' r' k ≠ trackAddr build t r j := trackAddr_ne hr hr' hj hk (.inl h)
  unfold writeTrackRow
  rw [readByte_writeByte_other (hne (by decide)), readByte_writeByte_other (hne (by decide)),
    readByte_writeByte_other (hne (by decide))]

/-- Settles O57: each operation is one write to the host agent, and distinct entries of the Song stand at distinct
places. -/
theorem seekClampsToTheLastBlock : Obligations.SeekClampsToTheLastBlock := by
  unfold Obligations.SeekClampsToTheLastBlock
  intro s tr song withSong
  refine ⟨fun n hblocks => ⟨?seek, rfl, rfl⟩, fun _ => ⟨presented_host_alone rfl fun _ => rfl, rfl⟩,
    fun _ => presented_host_alone rfl fun _ => rfl, fun _ => presented_host_alone rfl fun _ => rfl,
    fun _ => presented_host_alone rfl fun _ => rfl, ?table, ?tracks⟩
  case seek =>
    rw [← seekTarget_of_blocks hblocks n]
    exact presented_host_alone rfl fun _ => rfl
  case table =>
    intro ⟨htable, _⟩ b c x hb hc
    have hchannels {c : Nat} (h : c < channelCount s.build) : c < 16 := by
      have := (channelCount_bounds s.build).2
      omega
    refine ⟨writeByte song.table (tableAddr b c) x, ?_, readByte_writeByte_same htable _ _, fun b' c' hc' hne => ?_⟩
    · exact presented_host_alone rfl fun rest => setTableOp_inside (s := s.withPending rest) hb hc x
    · exact readByte_writeByte_other (tableAddr_ne (hchannels hc) (hchannels hc') hne) x song.table
  case tracks =>
    intro ⟨_, htracks⟩ t r note ins fx ht hcount hr
    obtain ⟨hnote, hins, hfx⟩ := readByte_writeTrackRow_same (t := t) hr note ins fx htracks
    refine ⟨writeTrackRow s.build t r note ins fx song.tracks, ?_, hnote, hins, hfx, fun t' r' k hr' hk hne => ?_⟩
    · exact presented_host_alone rfl fun rest => setTrackRowOp_inside (s := s.withPending rest) ht hcount hr note ins fx
    · exact readByte_writeTrackRow_other hr hr' hk hne note ins fx song.tracks

end Sys2Proof.Machine
end

/-! The end of a row (R309, R312), and one pass of `fill_buffer` (R309 to R311). -/
section
namespace Sys2Proof.Machine

/-! What the frame's advance does to the host agent, case by case. -/

section
variable {s : State}

theorem advanceFrameOp_inside_row (h : ¬ rowLen s.build s.transport.song s.transport.row ≤ s.transport.frame + 1)
    (rest : List Event) : advanceFrameOp (s.withPending rest) =
      s.withHost rest { s.transport with frame := s.transport.frame + 1 } :=
  if_neg h

theorem advanceFrameOp_next_row (hfull : rowLen s.build s.transport.song s.transport.row ≤ s.transport.frame + 1)
    (hrow : ¬ trackLength s.build ≤ s.transport.row + 1) (rest : List Event) : advanceFrameOp (s.withPending rest) =
      s.withHost rest { s.transport with frame := 0, row := s.transport.row + 1 } :=
  (if_pos hfull).trans (if_neg hrow)

theorem advanceFrameOp_next_block (hfull : rowLen s.build s.transport.song s.transport.row ≤ s.transport.frame + 1)
    (hrow : trackLength s.build ≤ s.transport.row + 1)
    (hblock : ¬ s.transport.song.tableLength.toNat ≤ s.transport.block + 1) (rest : List Event) :
    advanceFrameOp (s.withPending rest) =
      s.withHost rest { s.transport with frame := 0, row := 0, block := s.transport.block + 1 } :=
  (if_pos hfull).trans ((if_pos hrow).trans (if_neg hblock))

theorem advanceFrameOp_wrap (hfull : rowLen s.build s.transport.song s.transport.row ≤ s.transport.frame + 1)
    (hrow : trackLength s.build ≤ s.transport.row + 1)
    (hblock : s.transport.song.tableLength.toNat ≤ s.transport.block + 1) (hloop : s.transport.blockLoop = true)
    (rest : List Event) : advanceFrameOp (s.withPending rest) =
      s.withHost rest { s.transport with frame := 0, row := 0, block := 0 } :=
  (if_pos hfull).trans ((if_pos hrow).trans ((if_pos hblock).trans (if_pos hloop)))

theorem advanceFrameOp_stop (hfull : rowLen s.build s.transport.song s.transport.row ≤ s.transport.frame + 1)
    (hrow : trackLength s.build ≤ s.transport.row + 1)
    (hblock : s.transport.song.tableLength.toNat ≤ s.transport.block + 1) (hloop : s.transport.blockLoop = false)
    (rest : List Event) : advanceFrameOp (s.withPending rest) =
      s.withHost ([.command (runCommandWord false), .command silenceCommandWord] ++ rest)
        { s.transport with tstate := .stopped, frame := 0, row := 0, block := 0 } :=
  (if_pos hfull).trans <| (if_pos hrow).trans <| (if_pos hblock).trans (if_neg (Bool.eq_false_iff.mp hloop))

end

/-- A step takes the oldest event of the host agent and answers what its operation answers. -/
theorem step_host_of_eq {e : Event} {rest : List Event} {s t : State} (he : eventInstr e = none)
    (ht : hostEvent e (s.withPending rest) = t) : step (s.withPending (e :: rest)) = .next t :=
  ht ▸ step_host (s := s.withPending (e :: rest)) rfl he

/-- Settles O59: the step is the frame's advance, in each of its cases. -/
theorem rowEndAdvancesBlockOrStops : Obligations.RowEndAdvancesBlockOrStops := by
  unfold Obligations.RowEndAdvancesBlockOrStops
  intro s rest tr full lastRow lastBlock after
  exact ⟨fun h => step_host_of_eq rfl (advanceFrameOp_inside_row h rest),
    fun hfull hrow => step_host_of_eq rfl (advanceFrameOp_next_row hfull hrow rest),
    fun hfull hrow hblock => step_host_of_eq rfl (advanceFrameOp_next_block hfull hrow hblock rest),
    fun hfull hrow hblock hloop => step_host_of_eq rfl (advanceFrameOp_wrap hfull hrow hblock hloop rest),
    fun hfull hrow hblock hloop => step_host_of_eq rfl (advanceFrameOp_stop hfull hrow hblock hloop rest)⟩

/-! One pass of `fill_buffer`. -/

/-- A row's dispatch as the list of its channels' commands, in ascending order (R310). -/
theorem dispatchBelow_eq_flatMap (s : State) (n : Nat) : dispatchBelow s n = (List.range n).flatMap (dispatchChannel s) := by
  induction n with
  | zero => rfl
  | succ n ih => rw [dispatchBelow, ih, List.range_succ, List.flatMap_append, List.flatMap_singleton]

/-- A pass of one sample is a buffer of one. -/
theorem presented_fillBuffer_one {s t : State} (h : Presented .sample s t) : Presented (.fillBuffer 1) s t :=
  presented_fillBuffer_succ h (presented_fillBuffer_zero t)

/-- The state with a pass's sample computed and stored: the block's TICK beside a host agent with one sample more (R309). -/
theorem storeSampleOp_tick (s : State) : storeSampleOp (nextState .tick s) = (tickCmd s).withTransport
    { s.transport with dest := s.transport.dest ++ [(tickCmd s).sampleOut] } := by
  rw [← nextState_transport .tick s]
  rfl

/-- A pass while PLAYING is its commands, the strobe and the store, and then the frame's advance (R309). -/
theorem presented_sample_of_playing {s u t : State} (hplaying : s.transport.tstate = .playing)
    (hcommands : Applied (passCommands s) s u) (hadvance : Presented .advanceFrame (storeSampleOp (nextState .tick u)) t) :
    Presented .sample s t :=
  presented_host rfl (sampleOp_of_playing hplaying) <|
    applied_append hcommands (applied_append (applied_tick_storeSample u) hadvance)

/-- Inside a row a pass issues no command (R309). -/
theorem presented_sample_inside_row {s : State} (hplaying : s.transport.tstate = .playing)
    (hframe : s.transport.frame ≠ 0)
    (hinside : ¬ rowLen s.build s.transport.song s.transport.row ≤ s.transport.frame + 1) :
    Presented .sample s ((tickCmd s).withTransport { s.transport with
      frame := s.transport.frame + 1, dest := s.transport.dest ++ [(tickCmd s).sampleOut] }) := by
  have hcommands : Applied (passCommands s) s s := by
    rw [passCommands, if_neg hframe]
    exact applied_nil s
  have hbuild : (tickCmd s).build = s.build := (sameProgram_tickCmd s).1
  refine presented_sample_of_playing hplaying hcommands (presented_host_alone rfl fun rest => ?_)
  rw [storeSampleOp_tick]
  exact advanceFrameOp_inside_row (by rwa [State.withTransport_build, hbuild]) rest

/-- With the block stopped, a pass while not PLAYING stores 0 (R291, R309). -/
theorem presented_sample_of_stopped {s : State} (hstate : s.transport.tstate ≠ .playing) (hrun : s.run = false) :
    Presented .sample s
      ((s.withSampleOut 0).withTransport { s.transport with dest := s.transport.dest ++ [0] }) := by
  have htick := applied_tick_storeSample s
  rw [nextState, tickCmd_of_stopped hrun] at htick
  exact presented_host rfl (sampleOp_of_not_playing hstate) htick

theorem presented_fillBuffer_of_stopped {s : State} (hstate : s.transport.tstate ≠ .playing) (hrun : s.run = false)
    (n : Nat) : Presented (.fillBuffer (n + 1)) s ((s.withSampleOut 0).withTransport { s.transport with
      dest := s.transport.dest ++ List.replicate (n + 1) 0 }) := by
  induction n generalizing s with
  | zero => exact presented_fillBuffer_one (presented_sample_of_stopped hstate hrun)
  | succ n ih =>
    have hpass := presented_sample_of_stopped hstate hrun
    rw [List.replicate_succ, ← List.singleton_append, ← List.append_assoc]
    exact presented_fillBuffer_succ hpass (ih hstate hrun)

/-- Settles O58: a pass while PLAYING is its commands and three events more; inside a row there are none of the former, and
while not PLAYING every pass stores the stopped block's 0. -/
theorem sampleDispatchesTheRowBeforeTheTick : Obligations.SampleDispatchesTheRowBeforeTheTick := by
  unfold Obligations.SampleDispatchesTheRowBeforeTheTick
  refine ⟨fun s rest hplaying => ?_, fun s hplaying hframe hinside => ?_, fun s n hstate hrun => ?_⟩
  · refine ⟨_, step_host_of_eq rfl (sampleOp_of_playing hplaying rest), ?_, rfl⟩
    rw [State.withPending_pending, passCommands, dispatchBelow_eq_flatMap]
    rfl
  · exact ⟨tickCmd s, exec_eq_next .tick s,
      presented_fillBuffer_one (presented_sample_inside_row hplaying hframe (Nat.not_le_of_lt hinside))⟩
  · exact presented_fillBuffer_of_stopped hstate hrun n

end Sys2Proof.Machine
end

/-! The length of a block (R307, R308): the samples of its rows add up to the formula, and a buffer filled from the start of a
block is a walk along its rows that ends where the last row ends (R309, R312). -/
section
namespace Sys2Proof.Machine

/-! The rows of a block as samples. -/

/-- The first sample of row `r`, counted from the start of the block: the lengths of the rows before it (R307). -/
def rowStart (b : Build) (song : Song) (r : Nat) : Nat := ((List.range r).map (rowLen b song)).sum

theorem rowStart_succ (b : Build) (song : Song) (r : Nat) :
    rowStart b song (r + 1) = rowStart b song r + rowLen b song r :=
  List.sum_range_succ _ r

theorem one_le_rowLen {song : Song} (htempo : 1 ≤ song.tempo.toNat) (b : Build) (r : Nat) : 1 ≤ rowLen b song r := by
  unfold rowLen
  split <;> omega

theorem rowStart_mono (b : Build) (song : Song) : Monotone (rowStart b song) :=
  monotone_nat_of_le_succ fun r => by
    rw [rowStart_succ]
    exact Nat.le_add_right _ _

/-- SWING_PHASE is a parity (R7). -/
theorem swingPhase_lt (b : Build) : swingPhase b < 2 := by
  cases b with
  | reference => decide
  | other n => exact Nat.mod_lt _ (by decide)

/-- TRACK_LENGTH is even (R7). -/
theorem even_trackLength (b : Build) : Even (trackLength b) := by
  cases b with
  | reference => decide
  | other n => exact even_two_mul _

theorem trackLength_pos (b : Build) : 0 < trackLength b := by
  cases b <;> simp only [trackLength] <;> omega

/-- Of two rows one after the other exactly one is of the parity that swings (R307). -/
theorem rowLen_add_rowLen_succ (b : Build) (song : Song) (r : Nat) :
    rowLen b song r + rowLen b song (r + 1) = 2 * song.tempo.toNat + song.swing.toNat := by
  have hphase := swingPhase_lt b
  unfold rowLen
  split <;> split <;> omega

/-- Pair by pair, the rows up to an even one. -/
theorem rowStart_add_self (b : Build) (song : Song) (h : Nat) :
    rowStart b song (h + h) = (h + h) * song.tempo.toNat + h * song.swing.toNat := by
  induction h with
  | zero => simp [rowStart]
  | succ h ih =>
    rw [show h + 1 + (h + 1) = h + h + 1 + 1 by omega, rowStart_succ, rowStart_succ, Nat.add_assoc,
      rowLen_add_rowLen_succ, ih]
    ring

/-- The rows of a block add up to its duration (R308). -/
theorem rowStart_trackLength (b : Build) (song : Song) : rowStart b song (trackLength b) = blockDuration b song := by
  obtain ⟨h, hh⟩ := even_trackLength b
  rw [blockDuration, hh, rowStart_add_self, ← Nat.two_mul, Nat.mul_div_cancel_left h (by decide)]

/-- A place inside a block comes before the block's end. -/
theorem rowStart_add_lt_blockDuration {b : Build} {song : Song} {row frame : Nat} (hrow : row < trackLength b)
    (hframe : frame < rowLen b song row) : rowStart b song row + frame < blockDuration b song := by
  have hnext : rowStart b song (row + 1) ≤ blockDuration b song :=
    (rowStart_mono b song hrow).trans_eq (rowStart_trackLength b song)
  rw [rowStart_succ] at hnext
  omega

/-! The build of a machine is fixed (R39). -/

theorem nextState_build (i : Instr) (s : State) : (nextState i s).build = s.build := by
  by_cases hi : ∃ space addr data, i = .pmwrite space addr data
  · obtain ⟨space, addr, data, rfl⟩ := hi
    obtain ⟨-, -, ⟨hbuild, -⟩, -⟩ := pmwriteCmd_frame space addr data s
    exact hbuild
  · exact (sameProgram_nextState (fun space addr data h => hi ⟨space, addr, data, h⟩) s).1

theorem hostEvent_build (e : Event) (s : State) : (hostEvent e s).build = s.build := by
  cases e with
  | command _ | pmWrite _ | tick => rfl
  | hardwareReset | stop | seek _ | setBlockLoop _ | setChannelActive _ _ | storeSample => rfl
  | setTempo _ | setSwing _ | setTableLength _ => rfl
  | play => simp only [hostEvent, playOp]; split <;> rfl
  | pause => simp only [hostEvent, pauseOp]; split <;> rfl
  | fillBuffer n => cases n <;> rfl
  | sample => simp only [hostEvent, sampleOp]; split <;> rfl
  | advanceFrame =>
    obtain ⟨x, es, -, -, hendRow⟩ := exists_endRow_eq (s.modTransport fun t => { t with frame := t.frame + 1 })
    have hbuild := congrArg State.build (hendRow s.pending)
    simp only [hostEvent, advanceFrameOp]
    split
    · exact hbuild
    · rfl
  | setTable _ _ _ => simp only [hostEvent, setTableOp]; split <;> rfl
  | setTrackRow _ _ _ _ _ => simp only [hostEvent, setTrackRowOp]; split <;> rfl

theorem step_build {s t : State} (h : step s = .next t) : t.build = s.build := by
  obtain ⟨-, rfl⟩ | ⟨_, rest, i, -, -, rfl⟩ | ⟨e, rest, -, -, rfl⟩ := step_cases h
  · rfl
  · exact nextState_build i _
  · exact hostEvent_build e _

theorem run_build {k : Nat} {s t : State} (h : Host.Core.run Sys2Proof.core k s = .next t) : t.build = s.build := by
  induction k generalizing s with
  | zero =>
    cases h
    rfl
  | succ k ih =>
    obtain ⟨u, hstep⟩ := exists_step_eq_next s
    rw [run_succ k hstep] at h
    exact (ih h).trans (step_build hstep)

theorem Applied.build {es : List Event} {s t : State} (h : Applied es s t) : t.build = s.build := by
  obtain ⟨_, hrun⟩ := h []
  exact (run_build hrun :)

/-! How far a block has been played. -/

/-- The host agent right after the last sample of a block: at the next block, or past the last one at block 0, PLAYING on or
stopped (R312). -/
def nextBlock (x : Transport) : Transport :=
  let more := x.block + 1 < x.song.tableLength.toNat
  { x with
    tstate := if more ∨ x.blockLoop = true then .playing else .stopped
    block := if more then x.block + 1 else 0
    row := 0
    frame := 0 }

/-- Where the host agent stands when it has stored `samples` since it was `x`, at the start of a block. -/
inductive BlockProgress (b : Build) (x : Transport) (samples : List Word16) : Transport → Prop where
  /-- Inside a row of the block. -/
  | inside (row frame : Nat) (hrow : row < trackLength b) (hframe : frame < rowLen b x.song row)
      (hlength : samples.length = rowStart b x.song row + frame) :
      BlockProgress b x samples { x with row := row, frame := frame, dest := x.dest ++ samples }
  /-- Just past the block. -/
  | done (hlength : samples.length = blockDuration b x.song) :
      BlockProgress b x samples { nextBlock x with dest := x.dest ++ samples }

section
variable {b : Build} {x y : Transport} {samples : List Word16}

/-- At the start of a block nothing of it has been stored. -/
theorem BlockProgress.start (htempo : 1 ≤ x.song.tempo.toNat) (hrow : x.row = 0) (hframe : x.frame = 0) :
    BlockProgress b x [] x := by
  obtain ⟨tstate, block, row, frame, blockLoop, song, dest⟩ := x
  obtain ⟨rfl, rfl⟩ : row = 0 ∧ frame = 0 := ⟨hrow, hframe⟩
  have hstart := BlockProgress.inside (samples := []) 0 0 (trackLength_pos b) (one_le_rowLen htempo b 0) rfl
  rwa [List.append_nil] at hstart

theorem BlockProgress.exists_of_lt (h : BlockProgress b x samples y) (hlt : samples.length < blockDuration b x.song) :
    ∃ row frame, row < trackLength b ∧ frame < rowLen b x.song row ∧ samples.length = rowStart b x.song row + frame
      ∧ y = { x with row := row, frame := frame, dest := x.dest ++ samples } := by
  cases h with
  | inside row frame hrow hframe hlength => exact ⟨row, frame, hrow, hframe, hlength, rfl⟩
  | done hlength => exact absurd hlength hlt.ne

theorem BlockProgress.eq_of_length (h : BlockProgress b x samples y) (heq : samples.length = blockDuration b x.song) :
    y = { nextBlock x with dest := x.dest ++ samples } := by
  cases h with
  | inside row frame hrow hframe hlength =>
    exact absurd (hlength.symm.trans heq) (rowStart_add_lt_blockDuration hrow hframe).ne
  | done => rfl

end

/-! One sample of a block, and as many as it has. -/

theorem presented_advanceFrame_of_eq {s : State} {x : Transport}
    (h : ∀ rest, advanceFrameOp (s.withPending rest) = s.withHost rest x) :
    Presented .advanceFrame s (s.withTransport x) :=
  presented_host_alone rfl h

/-- The frame's advance at the end of a block leads to the next one, its commands applied (R312). -/
theorem exists_presented_advanceFrame_block_end {s : State} (hplaying : s.transport.tstate = .playing)
    (hfull : rowLen s.build s.transport.song s.transport.row ≤ s.transport.frame + 1)
    (hrow : trackLength s.build ≤ s.transport.row + 1) :
    ∃ t, Presented .advanceFrame s t ∧ t.transport = nextBlock s.transport := by
  by_cases hblock : s.transport.song.tableLength.toNat ≤ s.transport.block + 1
  · cases hloop : s.transport.blockLoop with
    | true =>
      refine ⟨_, presented_advanceFrame_of_eq (advanceFrameOp_wrap hfull hrow hblock hloop), ?_⟩
      simp [nextBlock, Nat.not_lt_of_le hblock, hloop, hplaying]
    | false =>
      refine ⟨_, presented_host
        (u := s.withTransport { s.transport with tstate := .stopped, frame := 0, row := 0, block := 0 })
        rfl (advanceFrameOp_stop hfull hrow hblock hloop) (applied_stopCommands _), ?_⟩
      simp [nextBlock, Nat.not_lt_of_le hblock, hloop, silenceCmd]
  · refine ⟨_, presented_advanceFrame_of_eq (advanceFrameOp_next_block hfull hrow hblock), ?_⟩
    simp [nextBlock, Nat.lt_of_not_le hblock, hplaying]

/-- With one sample more stored, the frame's advance brings the position up to it: in the row, at the next row or past the
block. -/
theorem exists_presented_advanceFrame_progress {s : State} {x : Transport} {samples : List Word16} {row frame : Nat}
    (hplaying : x.tstate = .playing) (htempo : 1 ≤ x.song.tempo.toNat)
    (hs : s.transport = { x with row := row, frame := frame, dest := x.dest ++ samples })
    (hrow : row < trackLength s.build) (hframe : frame < rowLen s.build x.song row)
    (hlength : samples.length = rowStart s.build x.song row + frame + 1) :
    ∃ t, Presented .advanceFrame s t ∧ BlockProgress s.build x samples t.transport := by
  by_cases hfull : rowLen s.build x.song row ≤ frame + 1
  · have hfull' : rowLen s.build s.transport.song s.transport.row ≤ s.transport.frame + 1 := by rw [hs]; exact hfull
    have hnext : samples.length = rowStart s.build x.song (row + 1) := by
      rw [rowStart_succ]
      omega
    by_cases hlast : trackLength s.build ≤ row + 1
    · obtain ⟨t, hadvance, ht⟩ := exists_presented_advanceFrame_block_end (by rw [hs]; exact hplaying) hfull'
        (by rw [hs]; exact hlast)
      refine ⟨t, hadvance, ?_⟩
      rw [ht, hs]
      refine .done ?_
      rw [hnext, ← rowStart_trackLength, Nat.le_antisymm hlast hrow]
    · refine ⟨_, presented_advanceFrame_of_eq (advanceFrameOp_next_row hfull' (by rw [hs]; exact hlast)), ?_⟩
      rw [State.withTransport_transport, hs]
      exact .inside (row + 1) 0 (Nat.lt_of_not_le hlast) (one_le_rowLen htempo _ _) hnext
  · refine ⟨_, presented_advanceFrame_of_eq (advanceFrameOp_inside_row (by rw [hs]; exact hfull)), ?_⟩
    rw [State.withTransport_transport, hs]
    exact .inside row (frame + 1) hrow (Nat.lt_of_not_le hfull) hlength

/-- One pass stores one sample and brings the position up to it (R309). -/
theorem exists_presented_sample_progress {s : State} {x : Transport} {samples : List Word16}
    (hplaying : x.tstate = .playing) (htempo : 1 ≤ x.song.tempo.toNat)
    (h : BlockProgress s.build x samples s.transport) (hlt : samples.length < blockDuration s.build x.song) :
    ∃ t sample, Presented .sample s t ∧ BlockProgress s.build x (samples ++ [sample]) t.transport := by
  obtain ⟨row, frame, hrow, hframe, hlength, hs⟩ := h.exists_of_lt hlt
  obtain ⟨u, hcommands, hu⟩ := exists_applied_instrs (isSome_eventInstr_of_mem_passCommands s) s
  let v := storeSampleOp (nextState .tick u)
  have hv : v.transport = { x with
      row := row, frame := frame, dest := x.dest ++ (samples ++ [(tickCmd u).sampleOut]) } := by
    rw [← List.append_assoc]
    simp only [v, storeSampleOp_tick, State.withTransport_transport, hu, hs]
  have hbuild : v.build = s.build := (nextState_build .tick u).trans hcommands.build
  rw [← hbuild] at hrow hframe hlength ⊢
  obtain ⟨t, hadvance, ht⟩ := exists_presented_advanceFrame_progress hplaying htempo hv hrow hframe
    (by rw [List.length_append, hlength, List.length_singleton])
  exact ⟨t, _, presented_sample_of_playing (by rw [hs]; exact hplaying) hcommands hadvance, ht⟩

/-- Samples up to the end of the block, one pass after the other. -/
theorem exists_presented_fillBuffer_progress {x : Transport} (hplaying : x.tstate = .playing)
    (htempo : 1 ≤ x.song.tempo.toNat) (k : Nat) {s : State} {samples : List Word16}
    (h : BlockProgress s.build x samples s.transport) (hk : samples.length + k ≤ blockDuration s.build x.song) :
    ∃ t samples', Presented (.fillBuffer k) s t ∧ samples'.length = samples.length + k
      ∧ BlockProgress s.build x samples' t.transport := by
  induction k generalizing s samples with
  | zero => exact ⟨s, samples, presented_fillBuffer_zero s, rfl, h⟩
  | succ k ih =>
    obtain ⟨u, sample, hpass, hu⟩ := exists_presented_sample_progress hplaying htempo h (by omega)
    have hbuild : u.build = s.build := hpass.build
    have hlength : (samples ++ [sample]).length = samples.length + 1 := List.length_append
    rw [← hbuild] at hu hk ⊢
    obtain ⟨t, samples', hfill, hlength', ht⟩ := ih hu (by omega)
    exact ⟨t, samples', presented_fillBuffer_succ hpass hfill, by omega, ht⟩

/-- Settles O60: the rows add up pair by pair, and the samples walk along them to the end of the last. -/
theorem blockDurationFormula : Obligations.BlockDurationFormula := by
  unfold Obligations.BlockDurationFormula
  refine ⟨fun b song htempo => ?_, fun s => ?_⟩
  · simp only [max_eq_right (one_le_rowLen htempo b _)]
    exact rowStart_trackLength b song
  · intro tr n more htempo hplaying hrow hframe
    have hfill (k : Nat) (hk : k ≤ n) : ∃ t samples, Presented (.fillBuffer k) s t ∧ samples.length = k
        ∧ BlockProgress s.build tr samples t.transport := by
      obtain ⟨t, samples, hfill, hlength, ht⟩ := exists_presented_fillBuffer_progress hplaying htempo k
        (.start (b := s.build) htempo hrow hframe) (by rwa [List.length_nil, Nat.zero_add])
      exact ⟨t, samples, hfill, hlength.trans (Nat.zero_add k), ht⟩
    refine ⟨fun k hk => ?_, ?_⟩
    · obtain ⟨t, samples, hfill, rfl, ht⟩ := hfill k hk.le
      obtain ⟨row, frame, -, -, -, htransport⟩ := ht.exists_of_lt hk
      exact ⟨t, hfill, by rw [htransport]; exact hplaying, by rw [htransport]⟩
    · obtain ⟨t, samples, hfill, hlength, ht⟩ := hfill n le_rfl
      exact ⟨t, samples, hfill, hlength, ht.eq_of_length hlength⟩

end Sys2Proof.Machine
end
